-- ==== Sys2Proof/Word.lean ====
section
/-! DEFINITION. The word types of 00_scope.md R8. -/

namespace Sys2Proof

/-- A 32-bit value: every address, length, count, timeout, frequency and user-data word (R8). -/
abbrev Word := BitVec 32

/-- One byte of memory or of a transfer (R60, R75). -/
abbrev Byte := BitVec 8

/-- An 8-bit index: a descriptor, a bus, a peripheral identifier or a DMA channel (R8). -/
abbrev Idx := BitVec 8

end Sys2Proof
end

