-- ==== Sys2Proof/Syntax.lean ====
section
/-! DEFINITION. The operations of 30_encoding.md as syntax: one constructor of `Instr` per row of the opcode table,
and the reasons a command is rejected by the decoder. -/

namespace Sys2Proof

/-- A buffer operand `(addr, len)` of SUBMIT (30_encoding.md R94). -/
structure Buffer where
  addr : Word
  len : Word
deriving DecidableEq, Repr

/-- A callback reference (30_encoding.md R97): no callback, the block's default callback, or external code `uid`
with its promise `rel` to release the busy lock. -/
inductive Callback where
  | none
  | default
  | user (uid : BitVec 24) (rel : Bool)
deriving DecidableEq, Repr

/-- The ten operations (30_encoding.md R92). The first five are issued by the foreground, the others are steps of
the interrupt context. -/
inductive Instr where
  | configure (d : Idx)
  | submit (d : Idx) (rx tx : Option Buffer) (cb : Callback) (args : Word)
  | isBusy (d : Idx)
  | waitUntilIdle (d : Idx)
  | defaultCallback (d : Idx)
  | irqRxrdy (p : Idx)
  | irqTxrdy (p : Idx)
  | irqTxcomp (p : Idx)
  | irqNone (p : Idx)
  | dmaDone (c : Idx)
deriving DecidableEq, Repr

/-- The pseudo-instruction `write` (30_encoding.md R104): a SUBMIT with a transmit buffer only. -/
abbrev Instr.write (d : Idx) (b : Buffer) (cb : Callback) (args : Word) : Instr :=
  .submit d .none (some b) cb args

/-- The pseudo-instruction `read` (30_encoding.md R104): a SUBMIT with a receive buffer only. -/
abbrev Instr.read (d : Idx) (b : Buffer) (cb : Callback) (args : Word) : Instr :=
  .submit d (some b) .none cb args

/-- The opcodes as names (30_encoding.md R92). -/
inductive Opcode where
  | configure | submit | isBusy | waitUntilIdle | defaultCallback
  | irqRxrdy | irqTxrdy | irqTxcomp | irqNone | dmaDone
deriving DecidableEq, Repr

/-- The four formats (30_encoding.md R91): descriptor, SUBMIT, interrupt, channel. -/
inductive Format where
  | fd | fs | fi | fc
deriving DecidableEq, Repr

/-- Why the decoder rejects a command (30_encoding.md R101, R103). `truncated` is the model's own: words that end before
the command does (log 8). -/
inductive Reject where
  | illegalOpcode
  | reservedBits
  | badDesc
  | unknownPid
  | badChannel
  | truncated
deriving DecidableEq, Repr

end Sys2Proof
end

