-- ==== Sys2Proof/Config.lean ====
section
/-! DEFINITION. The implementation parameters of 00_scope.md R7 and the free value behind every draw. -/

namespace Sys2Proof

/-- A bus instance: an entry of `BUSES` with the parameters R7 gives per bus (`HAS_FIFO`, `FIFO_DEPTH`, `THR_ADDR`,
`RHR_ADDR`). -/
structure Bus where
  base : Word
  pid : Idx
  hasFifo : Bool
  fifoDepth : Word
  thr : Word
  rhr : Word
deriving DecidableEq, Repr

/-- `SLOT_POLICY` (R6). -/
inductive SlotPolicy where
  | overwrite | failFast
deriving DecidableEq, Repr

/-- `IRQ_EVENT_FILTER` (R7, 60_exceptions.md R281). -/
inductive EventFilter where
  | any | enabledOnly
deriving DecidableEq, Repr

/-- `ASYNC_LOCK_RELEASE` (R7, 43_async.md R206). -/
inductive LockRelease where
  | callbackOnly | engineAfterCallback
deriving DecidableEq, Repr

/-- The parameters of R7. `callers` is the model's own (log 17): the identifiers of the user callbacks whose external code
attempts an operation of the block, which 40_config.md R128 refuses. -/
structure Config where
  nSlots : Nat
  dmaThreshold : Nat
  defaultTimeout : Word
  buses : List Bus
  nDesc : Nat
  nDmaCh : Nat
  dcacheEnabled : Bool
  cacheLine : Nat
  slotPolicy : SlotPolicy
  irqFilter : EventFilter
  lockRelease : LockRelease
  callers : List (BitVec 24)
deriving DecidableEq, Repr

/-- The ranges R7 gives the parameters. A power of two that divides the address space is a divisor of 2^32. -/
def Config.wf (c : Config) : Bool :=
  decide (1 ≤ c.nSlots ∧ c.nSlots ≤ 255) &&
  decide (2 ≤ c.dmaThreshold ∧ c.dmaThreshold < 2 ^ 32) &&
  decide (c.defaultTimeout ≠ 0) &&
  decide ((c.buses.map Bus.base).Nodup) && decide ((c.buses.map Bus.pid).Nodup) &&
  decide (c.buses.length ≤ 256) &&
  c.buses.all (fun b => !b.hasFifo || decide (2 ≤ b.fifoDepth.toNat)) &&
  decide (1 ≤ c.nDesc ∧ c.nDesc ≤ 256) && decide (1 ≤ c.nDmaCh ∧ c.nDmaCh ≤ 256) &&
  decide (0 < c.cacheLine ∧ 2 ^ 32 % c.cacheLine = 0)

/-- The parameters of the machine after reset: R7's defaults, and for its OPEN parameters the values of
95_test_vectors.md section 0 with one more bus, of identifier 0. DESIGN CHOICE, unsafe (log 1). -/
def Config.reset : Config where
  nSlots := 8
  dmaThreshold := 16
  defaultTimeout := 1000
  buses := [
    { base := 0x40018000, pid := 19, hasFifo := false, fifoDepth := 0, thr := 0x40018034, rhr := 0x40018030 },
    { base := 0x4001C000, pid := 20, hasFifo := true, fifoDepth := 16, thr := 0x4001C034, rhr := 0x4001C030 },
    { base := 0x40020000, pid := 0, hasFifo := false, fifoDepth := 0, thr := 0x40020034, rhr := 0x40020030 }]
  nDesc := 4
  nDmaCh := 4
  dcacheEnabled := true
  cacheLine := 32
  slotPolicy := .failFast
  irqFilter := .any
  lockRelease := .callbackOnly
  callers := []

/-- What the environment answers to the draw number `n` once the state's own list of answers is used up: a free
value (00_scope.md R12, 42_polling.md R161; log 2). -/
opaque Config.freeAnswer : Nat → Nat

end Sys2Proof
end

