-- ==== Sys2Proof/WellFormed.lean ====
section
/-! DEFINITION. Which operations the operand checks of 30_encoding.md R93 admit, for a machine's parameters. -/

namespace Sys2Proof

/-- `p` is the identifier of an entry of `BUSES` (R93). -/
def Config.knowsPid (cfg : Config) (p : Idx) : Bool :=
  cfg.buses.any (fun b => b.pid == p)

/-- R93: `d < N_DESC`, `p` a pid of `BUSES`, `c < N_DMA_CH`. -/
def Instr.wf (cfg : Config) : Instr → Bool
  | .configure d => decide (d.toNat < cfg.nDesc)
  | .submit d _ _ _ _ => decide (d.toNat < cfg.nDesc)
  | .isBusy d => decide (d.toNat < cfg.nDesc)
  | .waitUntilIdle d => decide (d.toNat < cfg.nDesc)
  | .defaultCallback d => decide (d.toNat < cfg.nDesc)
  | .irqRxrdy p => cfg.knowsPid p
  | .irqTxrdy p => cfg.knowsPid p
  | .irqTxcomp p => cfg.knowsPid p
  | .irqNone p => cfg.knowsPid p
  | .dmaDone c => decide (c.toNat < cfg.nDmaCh)

end Sys2Proof
end

