-- ==== Sys2Proof/Decode.lean ====
section
/-! DEFINITION. The decoder of 30_encoding.md R103, total on any words and rejecting by name, and the encoder written
from the same tables (R91, R92, R94, R95). -/

namespace Sys2Proof

/-- The code of an opcode (R92). -/
def Opcode.code : Opcode → BitVec 8
  | .configure => 0x01
  | .submit => 0x02
  | .isBusy => 0x03
  | .waitUntilIdle => 0x04
  | .defaultCallback => 0x05
  | .irqRxrdy => 0x10
  | .irqTxrdy => 0x11
  | .irqTxcomp => 0x12
  | .irqNone => 0x13
  | .dmaDone => 0x20

/-- The format of an opcode (R92). -/
def Opcode.format : Opcode → Format
  | .configure | .isBusy | .waitUntilIdle | .defaultCallback => .fd
  | .submit => .fs
  | .irqRxrdy | .irqTxrdy | .irqTxcomp | .irqNone => .fi
  | .dmaDone => .fc

/-- The opcode table's rows. -/
def Opcode.all : List Opcode :=
  [.configure, .submit, .isBusy, .waitUntilIdle, .defaultCallback, .irqRxrdy, .irqTxrdy, .irqTxcomp, .irqNone, .dmaDone]

/-- The opcode a code stands for; every other value is illegal (R92, R101). -/
def Opcode.ofCode (c : BitVec 8) : Option Opcode :=
  Opcode.all.find? (fun o => o.code == c)

/-- The opcode of an operation. -/
def Instr.opcode : Instr → Opcode
  | .configure _ => .configure
  | .submit _ _ _ _ _ => .submit
  | .isBusy _ => .isBusy
  | .waitUntilIdle _ => .waitUntilIdle
  | .defaultCallback _ => .defaultCallback
  | .irqRxrdy _ => .irqRxrdy
  | .irqTxrdy _ => .irqTxrdy
  | .irqTxcomp _ => .irqTxcomp
  | .irqNone _ => .irqNone
  | .dmaDone _ => .dmaDone

/-- Whether the foreground issues it (R92, column "issued by"). -/
def Opcode.foreground (o : Opcode) : Bool := o.format == .fd || o.format == .fs

/-- `h[7:0]` (R91). -/
def hdrOp (h : Word) : BitVec 8 := h.extractLsb' 0 8
/-- `h[15:8]` (R91). -/
def hdrArg (h : Word) : Idx := h.extractLsb' 8 8
/-- `h[16]` (R91). -/
def hdrRxp (h : Word) : Bool := h.getLsbD 16
/-- `h[17]` (R91). -/
def hdrTxp (h : Word) : Bool := h.getLsbD 17
/-- `h[31:18]` (R91). -/
def hdrRsv (h : Word) : BitVec 14 := h.extractLsb' 18 14

/-- A header word of its fields (R91). -/
def header (op : BitVec 8) (arg : Idx) (rxp txp : Bool) : Word :=
  (0#14 ++ BitVec.ofBool txp ++ BitVec.ofBool rxp ++ arg ++ op : BitVec 32)

/-- The callback word `w5` (R95): kind `[1:0]`, rel `[2]`, zero `[7:3]`, uid `[31:8]`. -/
def Callback.encode : Callback → Word
  | .none => 0#32
  | .default => 1#32
  | .user uid rel => (uid ++ 0#5 ++ BitVec.ofBool rel ++ 2#2 : BitVec 32)

/-- The callback reference a word stands for, none where R95 refuses the word. -/
def Callback.decode (w : Word) : Option Callback :=
  let kind := w.extractLsb' 0 2
  let rel := w.getLsbD 2
  let uid : BitVec 24 := w.extractLsb' 8 24
  if w.extractLsb' 3 5 ≠ 0#5 then .none
  else if kind = 2#2 then some (.user uid rel)
  else if rel ∨ uid ≠ 0#24 then .none
  else if kind = 0#2 then some .none
  else if kind = 1#2 then some .default
  else .none

/-- A buffer of its two words: absent (bit 0) only with both words 0 (R94). -/
def decodeBuffer (present : Bool) (a n : Word) : Option (Option Buffer) :=
  if present then some (some ⟨a, n⟩)
  else if a = 0#32 ∧ n = 0#32 then some .none
  else .none

/-- Format FS after the header checks (R103): the descriptor, the six words, the buffers and the callback word.
DESIGN CHOICE: with fewer than six words the command is `truncated` after the header's checks and the descriptor's, and no operand word
there is checked, because R103 takes all six before it checks one (log 8). -/
def decodeSubmit (cfg : Config) (h : Word) : List Word → Except Reject (Instr × List Word)
  | rxb :: rxl :: txb :: txl :: cbw :: args :: rest =>
    if (hdrArg h).toNat < cfg.nDesc then
      match decodeBuffer (hdrRxp h) rxb rxl, decodeBuffer (hdrTxp h) txb txl, Callback.decode cbw with
      | some rx, some tx, some cb => .ok (.submit (hdrArg h) rx tx cb args, rest)
      | _, _, _ => .error .reservedBits
    else .error .badDesc
  | _ => if (hdrArg h).toNat < cfg.nDesc then .error .truncated else .error .badDesc

/-- Format FD (R103). -/
def decodeDesc (cfg : Config) (h : Word) (mk : Idx → Instr) (rest : List Word) :
    Except Reject (Instr × List Word) :=
  if (hdrArg h).toNat < cfg.nDesc then .ok (mk (hdrArg h), rest) else .error .badDesc

/-- Format FI (R103). -/
def decodePid (cfg : Config) (h : Word) (mk : Idx → Instr) (rest : List Word) :
    Except Reject (Instr × List Word) :=
  if cfg.knowsPid (hdrArg h) then .ok (mk (hdrArg h), rest) else .error .unknownPid

/-- Format FC (R103). -/
def decodeChan (cfg : Config) (h : Word) (mk : Idx → Instr) (rest : List Word) :
    Except Reject (Instr × List Word) :=
  if (hdrArg h).toNat < cfg.nDmaCh then .ok (mk (hdrArg h), rest) else .error .badChannel

/-- The decode procedure of R103: one command at the front of `words`, and the words after it. The order of the checks is
the rule's. -/
def decode (cfg : Config) : List Word → Except Reject (Instr × List Word)
  | [] => .error .truncated
  | h :: rest =>
    match Opcode.ofCode (hdrOp h) with
    | .none => .error .illegalOpcode
    | some o =>
      if hdrRsv h ≠ 0#14 then .error .reservedBits
      else if o ≠ .submit ∧ (hdrRxp h || hdrTxp h) then .error .reservedBits
      else match o with
        | .configure => decodeDesc cfg h .configure rest
        | .submit => decodeSubmit cfg h rest
        | .isBusy => decodeDesc cfg h .isBusy rest
        | .waitUntilIdle => decodeDesc cfg h .waitUntilIdle rest
        | .defaultCallback => decodeDesc cfg h .defaultCallback rest
        | .irqRxrdy => decodePid cfg h .irqRxrdy rest
        | .irqTxrdy => decodePid cfg h .irqTxrdy rest
        | .irqTxcomp => decodePid cfg h .irqTxcomp rest
        | .irqNone => decodePid cfg h .irqNone rest
        | .dmaDone => decodeChan cfg h .dmaDone rest

/-- The two words of a buffer operand (R94). -/
def encodeBuffer : Option Buffer → List Word
  | .none => [0#32, 0#32]
  | some b => [b.addr, b.len]

/-- The words of an operation (R91, R92, R94, R95, R102). -/
def encode : Instr → List Word
  | .configure d => [header Opcode.configure.code d false false]
  | .submit d rx tx cb args =>
    header Opcode.submit.code d rx.isSome tx.isSome :: (encodeBuffer rx ++ encodeBuffer tx ++ [cb.encode, args])
  | .isBusy d => [header Opcode.isBusy.code d false false]
  | .waitUntilIdle d => [header Opcode.waitUntilIdle.code d false false]
  | .defaultCallback d => [header Opcode.defaultCallback.code d false false]
  | .irqRxrdy p => [header Opcode.irqRxrdy.code p false false]
  | .irqTxrdy p => [header Opcode.irqTxrdy.code p false false]
  | .irqTxcomp p => [header Opcode.irqTxcomp.code p false false]
  | .irqNone p => [header Opcode.irqNone.code p false false]
  | .dmaDone c => [header Opcode.dmaDone.code c false false]

/-- The number of words of the command a header starts: 7 for SUBMIT, else 1 (R102). -/
def commandWords (h : Word) : Nat := if hdrOp h = Opcode.submit.code then 7 else 1

/-- The words of the instruction whose bits are `w`, the bits above `nbits` being 0: word `k` is bits `32k+31 .. 32k`. -/
def tableWords (nbits w : Nat) : List Word :=
  let v := w % 2 ^ nbits
  (List.range (commandWords (BitVec.ofNat 32 v))).map (fun k => BitVec.ofNat 32 (v / 2 ^ (32 * k)))

/-- The instruction the decoder reads from an opcode table's word, on the machine after reset. -/
def decodeTableWord (nbits w : Nat) : Option Instr :=
  match decode Config.reset (tableWords nbits w) with
  | .ok (i, _) => some i
  | .error _ => .none

end Sys2Proof
end

