-- ==== Sys2Proof/Machine/State.lean ====
section
/-! DEFINITION. The architectural state of 10_state.md and 20_memory.md as plain data, the events of the history, the inputs
from outside, and the launch state of 70_reset_and_hazards.md R320. -/

namespace Sys2Proof.Machine

/-- Transfer strategies (30_encoding.md R96). -/
inductive Strategy where
  | polling | async | dma | fifo
deriving DecidableEq, Repr

/-- Transfer direction (30_encoding.md R99). -/
inductive Dir where
  | read | write
deriving DecidableEq, Repr

/-- The statuses of SUBMIT (60_exceptions.md R270). -/
inductive Status where
  | success | lock | ack | timeout | duplex | noSlot
deriving DecidableEq, Repr

/-- The outcome of a bounded wait (30_encoding.md R99). -/
inductive Wait where
  | ready | timeout
deriving DecidableEq, Repr

/-- The descriptor fields the host supplies: fields 0 to 6 of 10_state.md R23. `slave`, `iaddr` and `isize` stand in 32 bits, so
that a value outside the field's width, which 41_dispatch.md R141 refuses, can be written down (log 14). -/
structure HostDesc where
  bus : Idx
  freq : Word
  strategy : Strategy
  timeout : Word
  slave : Word
  iaddr : Word
  isize : Word
deriving DecidableEq, Repr

/-- A transfer descriptor (10_state.md R23). -/
structure Desc where
  bus : Idx
  freq : Word
  strategy : Strategy
  timeout : Word
  slave : Word
  iaddr : Word
  isize : Word
  callback : Callback
  cbArgs : Word
  regionAddr : Word
  regionLen : Word
  lock : Bool
deriving DecidableEq, Repr

/-- An asynchronous transfer slot (10_state.md R26). -/
structure Slot where
  desc : Desc
  owner : Option Idx
  ptr : Option Word
  transferred : Word
  size : Word
  pid : Option Idx
  bufLo : Word
  bufHi : Word
deriving DecidableEq, Repr

/-- A DMA channel record (10_state.md R30). -/
structure Chan where
  active : Bool
  desc : Idx
  dir : Dir
  src : Word
  dst : Word
  srcIncr : Bool
  dstIncr : Bool
  len : Word
  moved : Word
  cbSet : Bool
  started : Bool
deriving DecidableEq, Repr

/-- The handler installed for an identifier (10_state.md R31). -/
inductive Handler where
  | none | shared
deriving DecidableEq, Repr

/-- The state the block writes in a bus instance's collaborators (10_state.md R31): `INTEN`, `LINE`, `VEC`, `CLK`. -/
structure Ctl where
  inten : BitVec 3
  line : Bool
  vec : Handler
  clk : Bool
deriving DecidableEq, Repr

/-- State of a present cache line (20_memory.md R65). -/
inductive LineState where
  | clean | dirty
deriving DecidableEq, Repr

/-- A present cache line: its state and its bytes (20_memory.md R65). -/
structure Line where
  state : LineState
  data : List Byte
deriving DecidableEq, Repr

/-- Data memory: the bytes that differ from what an unlisted address reads as, by rising address (20_memory.md R60). -/
abbrev Memory := List Host.Cell

/-- The present cache lines by rising line address (20_memory.md R65). -/
abbrev Cache := List (Nat × Line)

/-- The sticky hazard flags (10_state.md R33): `HZ_SLOT_OVERRUN`, `HZ_DUP_BINDING`, `HZ_CB_REPLACED`, `HZ_UNMATCHED_IRQ`. -/
structure Hazards where
  slotOverrun : Bool
  dupBinding : Bool
  cbReplaced : Bool
  unmatchedIrq : Bool
deriving DecidableEq, Repr

/-- The address tuple `A = (slave, iaddr, isize)` of a bus transaction (42_polling.md R160). -/
structure Target where
  slave : Word
  iaddr : Word
  isize : Word
deriving DecidableEq, Repr

/-- The kinds of a CALLBACK command (30_encoding.md R100). -/
inductive CbKind where
  | default | user
deriving DecidableEq, Repr

/-- The commands the block emits, each with its arguments and, last, the result it draws (30_encoding.md R100). `b` is a bus
index, `p` a peripheral identifier, `t` a timeout in ms. -/
inductive Cmd where
  | pmcEnable (p : Idx)
  | twiConfigure (b : Idx) (freq : Word)
  | fifoConfig (b : Idx) (txthr rxthr : Word)
  | startWrite (b : Idx) (a : Target) (byte : Byte)
  | startRead (b : Idx) (a : Target)
  | stop (b : Idx)
  | writeByte (b : Idx) (byte : Byte)
  | readByte (b : Idx) (result : Byte)
  | readNack (b : Idx) (result : Bool)
  | waitTxrdy (b : Idx) (t : Word) (result : Wait)
  | waitRxrdy (b : Idx) (t : Word) (result : Wait)
  | waitTxcomp (b : Idx) (t : Word) (result : Wait)
  | intEnable (b : Idx) (m : BitVec 3)
  | intDisable (b : Idx) (m : BitVec 3)
  | fifoWrite (b : Idx) (a : Target) (buf len t : Word) (result : Bool)
  | fifoRead (b : Idx) (a : Target) (buf len t : Word) (result : Bool)
  | irqSetHandler (p : Idx)
  | irqLineEnable (p : Idx)
  | irqLineDisable (p : Idx)
  | dmaAlloc (dir : Dir) (result : Option Idx)
  | dmaConfig (c : Idx) (src : Word) (sinc : Bool) (dst : Word) (dinc : Bool) (len : Word)
  | dmaSetCallback (c : Idx)
  | dmaStart (c : Idx)
  | dmaFree (c : Idx)
  | cacheClean (a n : Word)
  | cacheInvalidate (a n : Word)
  | callback (kind : CbKind) (uid : BitVec 24) (d : Idx) (args : Word)
deriving DecidableEq, Repr

/-- An entry of the history (10_state.md R36): a command with its drawn result, a drawn choice that is no command's result, the
interrupt event or completion the environment presents, which is a draw too (R38), the return of an operation, a CPU access, a DMA
access, a byte sent on a bus by the DMA engine (20_memory.md R72). How the draws are laid out is log 21's. -/
inductive Event where
  | cmd (c : Cmd)
  | choice (v : Nat)
  | presented (i : Instr)
  | ret (op : Opcode) (result : Option Word)
  | cpuRead (a : Word) (v : Byte)
  | cpuWrite (a : Word) (v : Byte)
  | dmaRead (a : Word) (v : Byte)
  | dmaWrite (a : Word) (v : Byte)
  | dmaTx (b : Idx) (v : Byte)
deriving DecidableEq, Repr

/-- The micro-steps FG can stand at: every label of the operations' rules but an operation's first one, which runs when the
operation is issued, and the one held label `w1` (10_state.md R22; 40_config.md R120, R123; 41_dispatch.md R140;
42_polling.md R162, R164; 43_async.md R190; 44_dma.md R232, R233; 45_fifo.md R260). -/
inductive Label where
  | c1 | c2 | c3 | c4 | c5
  | w1
  | s1 | s2 | s3 | s4 | s5 | s6 | s9
  | pw1 | pw2 | pw3 | pw4 | pw5 | pw6 | pw7 | pw8 | pw9 | pw10 | pw11
  | pr1 | pr2 | pr3 | pr4 | pr5 | pr6 | pr7 | pr8 | pr9 | pr10
  | a1 | a2 | a3 | a4w | a5w | a4r | a5r | a6
  | mw1 | mw2 | mw3 | mw4 | mw5 | mw6 | mw7
  | mr1 | mr2 | mr3 | mr4 | mr5 | mr6 | mr7 | mr8
  | f1 | f2 | f3 | f4
deriving DecidableEq, Repr

/-- The working values of the operation in progress (10_state.md R22); `aborted` is 42_polling.md R164's and `ok` is
45_fifo.md R260's. -/
structure Locals where
  d : Idx
  buf : Word
  len : Word
  dir : Dir
  eff : Strategy
  i : Word
  st : Status
  ch : Option Idx
  slot : Option Nat
  aborted : Bool
  ok : Bool
deriving DecidableEq, Repr

/-- The foreground sequencer `FG` (10_state.md R22): idle, or busy with an operation at a micro-step. -/
inductive Fg where
  | idle
  | busy (op : Instr) (label : Label) (loc : Locals)
deriving DecidableEq, Repr

/-- What the outside does next (log 3): one entry is one turn of one agent. -/
inductive Input where
  /-- Words of commands: a foreground operation the host issues, or an event the environment presents (30_encoding.md R92). -/
  | command (words : List Word)
  /-- The foreground takes its next micro-step (00_scope.md R13). -/
  | foreground
  /-- The foreground takes its micro-steps until it is Idle or held (00_scope.md R13, 40_config.md R123). -/
  | settle
  /-- The DMA engine moves the next byte of a channel (44_dma.md R238). -/
  | dmaByte (c : Idx)
  /-- The environment fills the line of an address (20_memory.md R68). -/
  | fill (a : Word)
  /-- The environment evicts the line of an address (20_memory.md R69). -/
  | evict (a : Word)
  /-- The host writes fields 0 to 6 of a descriptor (10_state.md R24). -/
  | hostDesc (d : Idx) (h : HostDesc)
  /-- CPU code outside the block reads a byte (20_memory.md R66). -/
  | hostRead (a : Word)
  /-- CPU code outside the block writes a byte (20_memory.md R67). -/
  | hostWrite (a : Word) (v : Byte)
deriving DecidableEq, Repr

/-- The model faults of 60_exceptions.md R276 with the information recorded. A fault is raised by setting the mark `FAULT`; the
step after it answers the fault (log 6). -/
inductive Fault where
  /-- `FLT_RX_OVERRUN(k)`, raised by IRQ_RXRDY (43_async.md R202) for a slot whose pointer is outside the caller's buffer. Safe:
  the chip would store past the buffer, the model stops. -/
  | rxOverrun (k : Nat) (ptr : Option Word)
  /-- `FLT_DMA_ALLOC(d)`, raised by the DMA adapter (44_dma.md R231) when no channel is given. Safe: the machine stops. -/
  | dmaAlloc (d : Idx) (dir : Dir)
  /-- The model's own: an IRQ_TXRDY or IRQ_TXCOMP for a bound slot whose pointer is NULL or whose owner is NONE, which no rule
  of the block produces (10_state.md R27; log 16). Safe: the machine stops, in states no run reaches. -/
  | brokenSlot (k : Nat)
deriving DecidableEq, Repr

/-- The refusals of 60_exceptions.md R277, raised by setting the mark `REFUSED`, and the model's own. All are safe: the machine
stops where it may go on. -/
inductive Refusal where
  /-- An instruction without a meaning yet, answered by `exec`'s arm. -/
  | notModelled (mnemonic : String)
  /-- `RF_ILLEGAL_OPCODE`, by the decoder (30_encoding.md R101). -/
  | illegalOpcode
  /-- `RF_RESERVED_BITS`, by the decoder (R101, R103, R95). -/
  | reservedBits
  /-- `RF_BAD_DESC`, by the decoder (R93). -/
  | badDesc
  /-- `RF_UNKNOWN_PID`, by the decoder (R93). -/
  | unknownPid
  /-- `RF_BAD_CHANNEL`, by the decoder (R93). -/
  | badChannel
  /-- `RF_BAD_DESC_FIELD`, by CONFIGURE at C0 and SUBMIT at S0 (41_dispatch.md R141). -/
  | badDescField
  /-- `RF_DUPLEX_UNCHECKED`, by SUBMIT at S3 (41_dispatch.md R148). -/
  | duplexUnchecked
  /-- `RF_ZERO_LENGTH`, by SUBMIT at S4 (41_dispatch.md R144). -/
  | zeroLength
  /-- `RF_BUFFER_RANGE`, by SUBMIT at S4 (41_dispatch.md R144). -/
  | bufferRange
  /-- `RF_NO_FIFO`, by SUBMIT at S5 (41_dispatch.md R146). -/
  | noFifo
  /-- `RF_CALL_FROM_CALLBACK`, by a step that invokes a user callback whose code calls the block (40_config.md R128; log 17). -/
  | callFromCallback
  /-- The model's own, by the decoder: the words end before the command does (log 8). -/
  | truncated
  /-- The model's own, by `exec` of a foreground operation while FG is busy with another one or stands at another operation's
  micro-step: 60_exceptions.md R300 row 1 says it cannot be expressed, and `step` never asks for it (log 7). -/
  | foregroundBusy
deriving DecidableEq, Repr

/-- The machine's state: everything 10_state.md and 20_memory.md name, the parameters (log 1), and the model's own `inputs`
(log 3), `answers` and `drawNo` (log 2). -/
structure State where
  cfg : Config
  fg : Fg
  result : Option Word
  descs : List Desc
  slots : List Slot
  rr : Nat
  chans : List Chan
  ctl : List Ctl
  mem : Memory
  cache : Cache
  hz : Hazards
  fault : Option Fault
  refused : Option Refusal
  hist : List Event
  inputs : List Input
  answers : List Nat
  drawNo : Nat
deriving DecidableEq, Repr

/-- The host-supplied fields of a descriptor after reset. DESIGN CHOICE, unsafe: the spec gives none (log 11). -/
def HostDesc.reset : HostDesc := ⟨0, 0, .polling, 0, 0, 0, 0⟩

/-- A descriptor at launch with the fields the host supplies (R320). -/
def Desc.launch (h : HostDesc) : Desc :=
  ⟨h.bus, h.freq, h.strategy, h.timeout, h.slave, h.iaddr, h.isize, .none, 0, 0, 0, false⟩

/-- A free slot at launch (R320); `desc` is unspecified there, the model's value is DESIGN CHOICE, unsafe (log 12). -/
def Slot.launch : Slot :=
  ⟨Desc.launch HostDesc.reset, none, none, 0, 0, none, 0, 0⟩

/-- A DMA channel at launch: every field 0 (R30, R320). -/
def Chan.launch : Chan := ⟨false, 0, .read, 0, 0, false, false, 0, 0, false, false⟩

/-- A bus instance's shadow state at launch (R31, R320). -/
def Ctl.launch : Ctl := ⟨0, false, .none, false⟩

/-- The launch state of 70_reset_and_hazards.md R320 for given parameters, host-supplied descriptor fields and memory. -/
def State.launch (cfg : Config) (descs : List HostDesc) (mem : Memory) : State where
  cfg := cfg
  fg := .idle
  result := none
  descs := descs.map Desc.launch
  slots := List.replicate cfg.nSlots Slot.launch
  rr := 0
  chans := List.replicate cfg.nDmaCh Chan.launch
  ctl := List.replicate cfg.buses.length Ctl.launch
  mem := mem
  cache := []
  hz := ⟨false, false, false, false⟩
  fault := none
  refused := none
  hist := []
  inputs := []
  answers := []
  drawNo := 0

/-- The machine right after reset (R320): the launch state with no memory byte listed. -/
def State.reset : State :=
  State.launch Config.reset (List.replicate Config.reset.nDesc HostDesc.reset) []

end Sys2Proof.Machine
end

