-- ==== Sys2Proof/Machine/Ops.lean ====
section
/-! DEFINITION. The shared operations over memory, cache, tables, history and draws; the effects of the emitted commands
(30_encoding.md R100); raising a fault, refusing, invoking a callback, returning. -/

namespace Sys2Proof.Machine

/-! ## Sparse tables -/

/-- The value listed under a key. -/
def assocGet {α : Type} : List (Nat × α) → Nat → Option α
  | [], _ => none
  | e :: r, k => if k = e.1 then some e.2 else assocGet r k

/-- Lists a value under a key, at its place by rising key. -/
def assocPut {α : Type} : List (Nat × α) → Nat → α → List (Nat × α)
  | [], k, v => [(k, v)]
  | e :: r, k, v =>
    if k < e.1 then (k, v) :: e :: r
    else if k = e.1 then (k, v) :: r
    else e :: assocPut r k v

/-- Lists nothing under a key. -/
def assocDel {α : Type} (l : List (Nat × α)) (k : Nat) : List (Nat × α) :=
  l.filter (fun e => e.1 != k)

/-- Keys strictly rising. -/
def assocSorted {α : Type} : List (Nat × α) → Bool
  | [] => true
  | e :: r => r.all (fun x => decide (e.1 < x.1)) && assocSorted r

/-! ## Data memory -/

/-- What a byte of `MEM` that nothing lists reads as. DESIGN CHOICE, unsafe: 70_reset_and_hazards.md R320 leaves the bytes the
host does not set unspecified (log 10). -/
def Memory.fill : Byte := 0

/-- The byte of `MEM` at an address (20_memory.md R60). -/
def Memory.read (m : Memory) (a : Nat) : Byte := (assocGet m a).getD Memory.fill

/-- Writes one byte, keeping the canonical form. -/
def Memory.write (m : Memory) (a : Nat) (v : Byte) : Memory :=
  if v = Memory.fill then assocDel m a else assocPut m a v

/-- The canonical form: addresses strictly rising, inside the address space, no byte that an unlisted address reads as. -/
def Memory.wf (m : Memory) : Bool :=
  assocSorted m && m.all (fun c => decide (c.1 < 2 ^ 32) && c.2 != Memory.fill)

/-- The `n` bytes from address `a`. -/
def Memory.readBytes (m : Memory) (a n : Nat) : List Byte :=
  (List.range n).map (fun k => Memory.read m (a + k))

/-- Writes bytes from address `a` on. -/
def Memory.writeBytes (m : Memory) (a : Nat) : List Byte → Memory
  | [] => m
  | v :: vs => Memory.writeBytes (Memory.write m a v) (a + 1) vs

/-! ## The history and the draws -/

/-- Appends an event to the history `H` (10_state.md R36). -/
def State.record (e : Event) (s : State) : State := { s with hist := s.hist ++ [e] }

/-- The environment's next answer: the state's own list first, then the free value (log 2). -/
def State.answer (s : State) : Nat :=
  match s.answers with
  | [] => Config.freeAnswer s.drawNo
  | a :: _ => a

/-- One draw was made. -/
def State.consume (s : State) : State := { s with answers := s.answers.tail, drawNo := s.drawNo + 1 }

/-- A drawn bit. -/
def State.answerBit (s : State) : Bool := s.answer % 2 == 1

/-- A drawn byte. -/
def State.answerByte (s : State) : Byte := BitVec.ofNat 8 s.answer

/-- A drawn wait outcome, codes of 30_encoding.md R99: `READY` 0, `TIMEOUT` 1. -/
def State.answerWait (s : State) : Wait := if s.answerBit then .timeout else .ready

/-- A drawn bit that is no command's result, recorded in the history. -/
def State.choose (s : State) : State := (s.consume).record (.choice (s.answer % 2))

/-- A drawn byte that is no command's result, recorded in the history. -/
def State.drawByte (s : State) : State := (s.consume).record (.choice s.answerByte.toNat)

/-! ## The data cache -/

/-- `line(a)` (20_memory.md R65). -/
def lineBase (cfg : Config) (a : Nat) : Nat := a - a % cfg.cacheLine

/-- `CACHE[line(a)]`; nothing is present where no cache exists (R65, R66). -/
def State.line? (s : State) (a : Nat) : Option Line :=
  if s.cfg.dcacheEnabled then assocGet s.cache (lineBase s.cfg a) else none

/-- The canonical form of the cache (R65): line addresses strictly rising multiples of `CACHE_LINE`, `CACHE_LINE` bytes each;
empty where no cache exists. -/
def Cache.wf (cfg : Config) (c : Cache) : Bool :=
  assocSorted c &&
  c.all (fun e => decide (e.1 < 2 ^ 32) && decide (e.1 % cfg.cacheLine = 0) && decide (e.2.data.length = cfg.cacheLine)) &&
  (cfg.dcacheEnabled || c.isEmpty)

/-- What the CPU sees at an address (R66): the line's byte where the line is present, else `MEM`'s. -/
def State.cpuByte (s : State) (a : Word) : Byte :=
  match s.line? a.toNat with
  | some l => l.data.getD (a.toNat - lineBase s.cfg a.toNat) (Memory.read s.mem a.toNat)
  | none => Memory.read s.mem a.toNat

/-- Fills the line of an address from `MEM`, `Clean` (R66, R68). -/
def State.fillLine (s : State) (a : Nat) : State :=
  let la := lineBase s.cfg a
  { s with cache := assocPut s.cache la ⟨.clean, Memory.readBytes s.mem la s.cfg.cacheLine⟩ }

/-- The draw of R66 and R67 on an absent line: leave it absent or fill it. -/
def State.allocate (s : State) (a : Word) : State :=
  if s.cfg.dcacheEnabled && (s.line? a.toNat).isNone then
    if s.answerBit then s.choose.fillLine a.toNat else s.choose
  else s

/-- The state after the CPU byte read `MemRead(a, 1)`; its value is `cpuByte` (R66). -/
def State.cpuRead (s : State) (a : Word) : State := (s.allocate a).record (.cpuRead a (s.cpuByte a))

/-- Stores a byte where the CPU's store lands: in the present line, then `Dirty`, else in `MEM` (R67). -/
def State.store (s : State) (a : Word) (v : Byte) : State :=
  let la := lineBase s.cfg a.toNat
  match s.line? a.toNat with
  | some l => { s with cache := assocPut s.cache la ⟨.dirty, l.data.set (a.toNat - la) v⟩ }
  | none => { s with mem := Memory.write s.mem a.toNat v }

/-- The CPU byte write `MemWrite(a, 1, v)` (R67). -/
def State.cpuWrite (s : State) (a : Word) (v : Byte) : State := ((s.allocate a).store a v).record (.cpuWrite a v)

/-- A line meets the range `[a, a+n)`: `la < a + n` and `la + CACHE_LINE > a` (R70, R71). DESIGN CHOICE: the two sums are exact, where
00_scope.md R9 alone would take them modulo 2^32 (log 31). -/
def meets (cfg : Config) (a n la : Nat) : Bool := decide (la < a + n) && decide (a < la + cfg.cacheLine)

/-- Writes the data of the dirty lines among `c` that `p` selects back to `MEM` (R69, R70). -/
def writeBack (p : Nat → Bool) (c : Cache) (m : Memory) : Memory :=
  c.foldl (fun m e => if p e.1 && e.2.state == .dirty then Memory.writeBytes m e.1 e.2.data else m) m

/-- The effect of `CACHE_CLEAN(a, n)` (R70). -/
def State.cleanRange (s : State) (a n : Word) : State :=
  if s.cfg.dcacheEnabled && n != 0 then
    let p := meets s.cfg a.toNat n.toNat
    { s with
      mem := writeBack p s.cache s.mem
      cache := s.cache.map (fun e => if p e.1 then (e.1, { e.2 with state := .clean }) else e) }
  else s

/-- The effect of `CACHE_INVALIDATE(a, n)` (R71). -/
def State.invalidateRange (s : State) (a n : Word) : State :=
  if s.cfg.dcacheEnabled && n != 0 then
    { s with cache := s.cache.filter (fun e => !meets s.cfg a.toNat n.toNat e.1) }
  else s

/-- Evicts the line of an address: written back if `Dirty`, then absent (R69). -/
def State.evictLine (s : State) (a : Nat) : State :=
  let la := lineBase s.cfg a
  { s with
    mem := writeBack (fun b => b == la) s.cache s.mem
    cache := assocDel s.cache la }

/-! ## The DMA engine's view of memory -/

/-- The bus whose receive-holding register an address is (R61; the first one, log 20). -/
def Config.rhrBus? (cfg : Config) (a : Word) : Option Idx :=
  (cfg.buses.findIdx? (fun b => b.rhr == a)).map (BitVec.ofNat 8)

/-- The bus whose transmit-holding register an address is (R61; the first one, log 20). -/
def Config.thrBus? (cfg : Config) (a : Word) : Option Idx :=
  (cfg.buses.findIdx? (fun b => b.thr == a)).map (BitVec.ofNat 8)

/-- The value of `DmaRead(a)` (R72): a drawn received byte at a receive-holding register, else `MEM`'s byte. -/
def State.dmaByte (s : State) (a : Word) : Byte :=
  if (Config.rhrBus? s.cfg a).isSome then s.answerByte else Memory.read s.mem a.toNat

/-- The state after `DmaRead(a)` (R72). -/
def State.dmaRead (s : State) (a : Word) : State :=
  (if (Config.rhrBus? s.cfg a).isSome then s.consume else s).record (.dmaRead a (s.dmaByte a))

/-- `DmaWrite(a, v)` (R72): a byte sent at a transmit-holding register, else a byte of `MEM`. -/
def State.dmaWrite (s : State) (a : Word) (v : Byte) : State :=
  match Config.thrBus? s.cfg a with
  | some b => s.record (.dmaTx b v)
  | none => { s with mem := Memory.write s.mem a.toNat v }.record (.dmaWrite a v)

/-! ## The tables -/

/-- A bus instance of `BUSES`; past the end of the list, one that no rule reads (log 19). -/
def Config.bus (cfg : Config) (b : Idx) : Bus := cfg.buses.getD b.toNat ⟨0, 0, false, 0, 0, 0⟩

/-- `BUSES[b].pid`. -/
def Config.pid (cfg : Config) (b : Idx) : Idx := (Config.bus cfg b).pid

/-- `bus_of(p)`: the index of the entry of `BUSES` with that pid (43_async.md R205). -/
def Config.busOf (cfg : Config) (p : Idx) : Idx := BitVec.ofNat 8 (cfg.buses.findIdx (fun b => b.pid == p))

/-- `D[d]`. -/
def State.desc (s : State) (d : Idx) : Desc := s.descs.getD d.toNat (Desc.launch HostDesc.reset)

/-- Writes fields of `D[d]`. -/
def State.modifyDesc (s : State) (d : Idx) (f : Desc → Desc) : State := { s with descs := s.descs.modify d.toNat f }

/-- `S[k]`. -/
def State.slot (s : State) (k : Nat) : Slot := s.slots.getD k Slot.launch

/-- Writes fields of `S[k]`. -/
def State.modifySlot (s : State) (k : Nat) (f : Slot → Slot) : State := { s with slots := s.slots.modify k f }

/-- `CH[c]`. -/
def State.chan (s : State) (c : Idx) : Chan := s.chans.getD c.toNat Chan.launch

/-- Writes fields of `CH[c]`. -/
def State.modifyChan (s : State) (c : Idx) (f : Chan → Chan) : State := { s with chans := s.chans.modify c.toNat f }

/-- The shadow state of bus `b` (10_state.md R31). -/
def State.ctlAt (s : State) (b : Idx) : Ctl := s.ctl.getD b.toNat Ctl.launch

/-- Writes the shadow state of bus `b`. -/
def State.modifyCtl (s : State) (b : Idx) (f : Ctl → Ctl) : State := { s with ctl := s.ctl.modify b.toNat f }

/-- `INTEN[p]`. -/
def State.inten (s : State) (p : Idx) : BitVec 3 := (s.ctlAt (Config.busOf s.cfg p)).inten
/-- `LINE[p]`. -/
def State.lineOn (s : State) (p : Idx) : Bool := (s.ctlAt (Config.busOf s.cfg p)).line
/-- `VEC[p]`. -/
def State.vec (s : State) (p : Idx) : Handler := (s.ctlAt (Config.busOf s.cfg p)).vec
/-- `CLK[p]`. -/
def State.clk (s : State) (p : Idx) : Bool := (s.ctlAt (Config.busOf s.cfg p)).clk

/-! ## The commands the block emits -/

/-- The effect of an emitted command on the model's state (30_encoding.md R100). `DMA_ALLOC` has none of its own: the adapter
writes the channel record (44_dma.md R231). -/
def State.perform (s : State) : Cmd → State
  | .pmcEnable p => s.modifyCtl (Config.busOf s.cfg p) (fun x => { x with clk := true })
  | .twiConfigure _ _ => s
  | .fifoConfig _ _ _ => s
  | .startWrite _ _ _ => s
  | .startRead _ _ => s
  | .stop _ => s
  | .writeByte _ _ => s
  | .readByte _ _ => s
  | .readNack _ _ => s
  | .waitTxrdy _ _ _ => s
  | .waitRxrdy _ _ _ => s
  | .waitTxcomp _ _ _ => s
  | .intEnable b m => s.modifyCtl b (fun x => { x with inten := x.inten ||| m })
  | .intDisable b m => s.modifyCtl b (fun x => { x with inten := x.inten &&& ~~~ m })
  | .fifoWrite _ _ _ _ _ _ => s
  | .fifoRead _ _ _ _ _ _ => s
  | .irqSetHandler p => s.modifyCtl (Config.busOf s.cfg p) (fun x => { x with vec := .shared })
  | .irqLineEnable p => s.modifyCtl (Config.busOf s.cfg p) (fun x => { x with line := true })
  | .irqLineDisable p => s.modifyCtl (Config.busOf s.cfg p) (fun x => { x with line := false })
  | .dmaAlloc _ _ => s
  | .dmaConfig c src sinc dst dinc len =>
    s.modifyChan c (fun x => { x with src := src, srcIncr := sinc, dst := dst, dstIncr := dinc, len := len })
  | .dmaSetCallback c => s.modifyChan c (fun x => { x with cbSet := true })
  | .dmaStart c => s.modifyChan c (fun x => { x with started := true })
  | .dmaFree c => s.modifyChan c (fun x => { x with active := false })
  | .cacheClean a n => s.cleanRange a n
  | .cacheInvalidate a n => s.invalidateRange a n
  | .callback _ _ _ _ => s

/-- `emit C(args)` (00_scope.md R12): the command in the history, then its effect. -/
def State.emit (s : State) (c : Cmd) : State := (s.record (.cmd c)).perform c

/-- `READ_NACK(b)`, whose drawn result is `answerBit` (42_polling.md R161). -/
def State.askNack (s : State) (b : Idx) : State := (s.consume).emit (.readNack b s.answerBit)

/-- `READ_BYTE(b)`, whose drawn result is `answerByte` (30_encoding.md R100). -/
def State.askByte (s : State) (b : Idx) : State := (s.consume).emit (.readByte b s.answerByte)

/-- `WAIT_TXRDY(b, t)`, whose drawn result is `answerWait` (42_polling.md R161). -/
def State.askTxrdy (s : State) (b : Idx) (t : Word) : State := (s.consume).emit (.waitTxrdy b t s.answerWait)

/-- `WAIT_RXRDY(b, t)`, whose drawn result is `answerWait` (42_polling.md R161). -/
def State.askRxrdy (s : State) (b : Idx) (t : Word) : State := (s.consume).emit (.waitRxrdy b t s.answerWait)

/-- `WAIT_TXCOMP(b, t)`, whose drawn result is `answerWait` (42_polling.md R161). -/
def State.askTxcomp (s : State) (b : Idx) (t : Word) : State := (s.consume).emit (.waitTxcomp b t s.answerWait)

/-! ## The busy lock -/

/-- Unlock: writes 0 (20_memory.md R81); on a free lock nothing changes (10_state.md R25). -/
def State.unlock (s : State) (d : Idx) : State := s.modifyDesc d (fun x => { x with lock := false })

/-- The write half of the try-lock (20_memory.md R81, 41_dispatch.md R143). -/
def State.takeLock (s : State) (d : Idx) : State := s.modifyDesc d (fun x => { x with lock := true })

/-! ## Stops, callbacks and returns -/

/-- `raise F(info)` (00_scope.md R12, 60_exceptions.md R276): sets `FAULT`; no step follows. -/
def State.raise (s : State) (f : Fault) : State := { s with fault := some f }

/-- `refuse RF(info)` (00_scope.md R12, 60_exceptions.md R277): sets `REFUSED` and changes no other state. -/
def State.refuse (s : State) (r : Refusal) : State := { s with refused := some r }

/-- Whether a callback's code calls no operation of the block (40_config.md R128; log 17). -/
def State.callbackAdmitted (s : State) : Callback → Bool
  | .none => true
  | .default => true
  | .user uid _ => !s.cfg.callers.contains uid

/-- `invoke_callback(cb, d, args)` (40_config.md R127). -/
def State.invokeCallback (s : State) (cb : Callback) (d : Idx) (args : Word) : State :=
  match cb with
  | .none => s
  | .default => (s.emit (.callback .default 0 d args)).unlock d
  | .user uid rel =>
    if rel then (s.emit (.callback .user uid d args)).unlock d else s.emit (.callback .user uid d args)

/-- The foreground stands at a micro-step (10_state.md R22). -/
def State.goto (s : State) (op : Instr) (l : Label) (x : Locals) : State := { s with fg := .busy op l x }

/-- `return`: the operation ends, FG is Idle, the result word holds what it returns (00_scope.md R12, 10_state.md R22,
30_encoding.md R98). -/
def State.finish (s : State) (op : Opcode) (r : Option Word) : State :=
  ({ s with fg := .idle, result := r }).record (.ret op r)

/-- The working values when an operation is issued; the rules write each before they read it (log 13). -/
def Locals.init (d : Idx) : Locals := ⟨d, 0, 0, .read, .polling, 0, .success, none, none, false, false⟩

end Sys2Proof.Machine
end

