-- ==== Sys2Proof/Machine/Codes.lean ====
section
/-! DEFINITION. The numeric codes the spec gives the values the machine holds, returns and emits. -/

namespace Sys2Proof.Machine

/-- Strategy codes (30_encoding.md R96). -/
def Strategy.code : Strategy → BitVec 2
  | .polling => 0
  | .async => 1
  | .dma => 2
  | .fifo => 3

/-- The strategy of a code; all four codes are legal (R96). -/
def Strategy.ofCode (c : BitVec 2) : Strategy :=
  if c = 0#2 then .polling else if c = 1#2 then .async else if c = 2#2 then .dma else .fifo

/-- Status codes (R98, 60_exceptions.md R270). -/
def Status.code : Status → Word
  | .success => 0
  | .lock => 1
  | .ack => 2
  | .timeout => 3
  | .duplex => 4
  | .noSlot => 5

/-- The Boolean a query returns: 1 for true and 0 for false (R98). -/
def boolWord (b : Bool) : Word := if b then 1 else 0

/-- Direction codes (R99). -/
def Dir.code : Dir → BitVec 1
  | .read => 0
  | .write => 1

/-- Wait outcome codes (R99). -/
def Wait.code : Wait → BitVec 1
  | .ready => 0
  | .timeout => 1

/-- The RXRDY bit of `INTEN` (R99). -/
def evRxrdy : BitVec 3 := 0x1
/-- The TXRDY bit of `INTEN` (R99). -/
def evTxrdy : BitVec 3 := 0x2
/-- The TXCOMP bit of `INTEN` (R99). -/
def evTxcomp : BitVec 3 := 0x4

/-- Trace codes of the emitted commands (R100). -/
def Cmd.code : Cmd → BitVec 8
  | .pmcEnable _ => 0x40
  | .twiConfigure _ _ => 0x41
  | .fifoConfig _ _ _ => 0x42
  | .startWrite _ _ _ => 0x50
  | .startRead _ _ => 0x51
  | .stop _ => 0x52
  | .writeByte _ _ => 0x53
  | .readByte _ _ => 0x54
  | .readNack _ _ => 0x55
  | .waitTxrdy _ _ _ => 0x56
  | .waitRxrdy _ _ _ => 0x57
  | .waitTxcomp _ _ _ => 0x58
  | .intEnable _ _ => 0x59
  | .intDisable _ _ => 0x5A
  | .fifoWrite _ _ _ _ _ _ => 0x5B
  | .fifoRead _ _ _ _ _ _ => 0x5C
  | .irqSetHandler _ => 0x60
  | .irqLineEnable _ => 0x61
  | .irqLineDisable _ => 0x62
  | .dmaAlloc _ _ => 0x70
  | .dmaConfig _ _ _ _ _ _ => 0x71
  | .dmaSetCallback _ => 0x72
  | .dmaStart _ => 0x73
  | .dmaFree _ => 0x74
  | .cacheClean _ _ => 0x80
  | .cacheInvalidate _ _ => 0x81
  | .callback _ _ _ _ => 0x90

/-- Fault codes (60_exceptions.md R276); the model's own fault has none. -/
def Fault.code : Fault → Option (BitVec 8)
  | .rxOverrun _ _ => some 0x01
  | .dmaAlloc _ _ => some 0x02
  | .brokenSlot _ => none

/-- Refusal codes (60_exceptions.md R277); the model's own refusals have none. -/
def Refusal.code : Refusal → Option (BitVec 8)
  | .illegalOpcode => some 0x01
  | .reservedBits => some 0x02
  | .badDesc => some 0x03
  | .unknownPid => some 0x04
  | .badChannel => some 0x05
  | .badDescField => some 0x06
  | .duplexUnchecked => some 0x07
  | .zeroLength => some 0x08
  | .bufferRange => some 0x09
  | .noFifo => some 0x0A
  | .callFromCallback => some 0x0B
  | .truncated => none
  | .foregroundBusy => none
  | _ => none

/-- The refusal of a command the decoder rejects (60_exceptions.md R277). -/
def Refusal.ofReject : Reject → Refusal
  | .illegalOpcode => .illegalOpcode
  | .reservedBits => .reservedBits
  | .badDesc => .badDesc
  | .unknownPid => .unknownPid
  | .badChannel => .badChannel
  | .truncated => .truncated

end Sys2Proof.Machine
end

