-- ==== Sys2Proof/Machine/Operands.lean ====
section
/-! DEFINITION. The operand forms and checks: descriptor fields, buffers, the effective strategy, slot matching, and when an
event may be presented. -/

namespace Sys2Proof.Machine

/-- `desc_ok(d)` (41_dispatch.md R141). -/
def State.descOk (s : State) (d : Idx) : Bool :=
  let x := s.desc d
  decide (x.bus.toNat < s.cfg.buses.length) && decide (x.slave.toNat ≤ 127) && decide (x.isize.toNat ≤ 3) &&
  decide (x.iaddr.toNat < 2 ^ (8 * x.isize.toNat))

/-- The address tuple `A` of `D[d]` (42_polling.md R160). -/
def State.target (s : State) (d : Idx) : Target := ⟨(s.desc d).slave, (s.desc d).iaddr, (s.desc d).isize⟩

/-- The bus index `b = D[d].bus`. -/
def State.busOfDesc (s : State) (d : Idx) : Idx := (s.desc d).bus

/-- The active buffer and the direction (41_dispatch.md R140 step S3): exactly one buffer, or none of it. -/
def activeBuffer : Option Buffer → Option Buffer → Option (Buffer × Dir)
  | some r, none => some (r, .read)
  | none, some t => some (t, .write)
  | some _, some _ => none
  | none, none => none

/-- A range of addresses holds a controller holding register of some bus (41_dispatch.md R144). -/
def coversHolding (cfg : Config) (buf len : Nat) : Bool :=
  cfg.buses.any (fun b =>
    (decide (buf ≤ b.thr.toNat) && decide (b.thr.toNat < buf + len)) ||
    (decide (buf ≤ b.rhr.toNat) && decide (b.rhr.toNat < buf + len)))

/-- The refusal of the buffer check S4, none where the buffer is admitted (41_dispatch.md R144, order of 60_exceptions.md
R278). -/
def bufferRefusal (cfg : Config) (buf len : Word) : Option Refusal :=
  if len = 0 then some .zeroLength
  else if 2 ^ 32 < buf.toNat + len.toNat then some .bufferRange
  else if coversHolding cfg buf.toNat len.toNat then some .bufferRange
  else none

/-- The effective strategy of step S5 (41_dispatch.md R145); none where R146 refuses. -/
def effective (cfg : Config) (strategy : Strategy) (b : Idx) (len : Word) : Option Strategy :=
  match strategy with
  | .polling => some .polling
  | .async => if len = 1 then some .polling else some .async
  | .dma => if len.toNat < cfg.dmaThreshold then some .polling else some .dma
  | .fifo => if (Config.bus cfg b).hasFifo then some .fifo else none

/-- The first micro-step of the engine of step S6 (41_dispatch.md R149). -/
def engineLabel : Strategy → Dir → Label
  | .polling, .write => .pw1
  | .polling, .read => .pr1
  | .async, _ => .a1
  | .dma, .write => .mw1
  | .dma, .read => .mr1
  | .fifo, _ => .f1

/-- A slot is free (10_state.md R27). -/
def Slot.free (x : Slot) : Bool := x.pid == none && x.ptr == none

/-- The slot an event of identifier `p` is matched to: the lowest index bound to `p` (43_async.md R197). -/
def State.matchSlot (s : State) (p : Idx) : Option Nat := s.slots.findIdx? (fun x => x.pid == some p)

/-- Some slot other than `k` is bound to `p` (43_async.md R193). -/
def State.boundElsewhere (s : State) (k : Nat) (p : Idx) : Bool :=
  (List.range s.slots.length).any (fun j => j != k && (s.slot j).pid == some p)

/-- The slot `FAIL_FAST` takes: the first free one from `RR` on, round the table (43_async.md R192). -/
def State.scanSlot (s : State) : Option Nat :=
  ((List.range s.cfg.nSlots).map (fun j => (s.rr + j) % s.cfg.nSlots)).find? (fun k => (s.slot k).free)

/-- Some DMA channel is active for `d` (41_dispatch.md R142). -/
def State.dmaActiveFor (s : State) (d : Idx) : Bool := s.chans.any (fun x => x.active && x.desc == d)

/-- The channel a `DMA_ALLOC` answers: a drawn number, NONE unless it is the number of an inactive channel (44_dma.md R231). -/
def State.answerChan (s : State) : Option Idx :=
  let c : Idx := BitVec.ofNat 8 s.answer
  if s.answer < s.cfg.nDmaCh ∧ (s.chan c).active = false then some c else none

/-- The `INTEN` bit of an event, none for IRQ_NONE (60_exceptions.md R281). -/
def eventBit : Instr → Option (BitVec 3)
  | .irqRxrdy _ => some evRxrdy
  | .irqTxrdy _ => some evTxrdy
  | .irqTxcomp _ => some evTxcomp
  | _ => none

/-- `IRQ_EVENT_FILTER` lets the event of `p` through (60_exceptions.md R281). -/
def State.filterPasses (s : State) (i : Instr) (p : Idx) : Bool :=
  match s.cfg.irqFilter with
  | .any => true
  | .enabledOnly =>
    match eventBit i with
    | some m => s.inten p &&& m != 0
    | none => false

/-- An interrupt event of `p` may be presented (60_exceptions.md R280, R281). -/
def State.irqEnabled (s : State) (i : Instr) (p : Idx) : Bool :=
  s.lineOn p && s.vec p == .shared && s.filterPasses i p

/-- The completion of channel `c` may be presented (44_dma.md R239, 60_exceptions.md R282). -/
def State.doneEnabled (s : State) (c : Idx) : Bool :=
  (s.chan c).active && (s.chan c).started && (s.chan c).cbSet && (s.chan c).moved == (s.chan c).len

/-- The operation may be issued: a foreground operation while FG is Idle (60_exceptions.md R300 row 1), an event under R281, a
completion under R282. -/
def State.mayIssue (s : State) : Instr → Bool
  | .configure _ => s.fg == .idle
  | .submit _ _ _ _ _ => s.fg == .idle
  | .isBusy _ => s.fg == .idle
  | .waitUntilIdle _ => s.fg == .idle
  | .defaultCallback _ => s.fg == .idle
  | .irqRxrdy p => s.irqEnabled (.irqRxrdy p) p
  | .irqTxrdy p => s.irqEnabled (.irqTxrdy p) p
  | .irqTxcomp p => s.irqEnabled (.irqTxcomp p) p
  | .irqNone p => s.irqEnabled (.irqNone p) p
  | .dmaDone c => s.doneEnabled c

end Sys2Proof.Machine
end

