-- ==== Sys2Proof/Machine/Flags.lean ====
section
/-! DEFINITION. The hazard flags of 10_state.md R33, each with the one operation that sets it; no rule clears one. -/

namespace Sys2Proof.Machine

/-- `HZ_CB_REPLACED` at step S1, when a DMA channel of `d` is active (41_dispatch.md R142). -/
def State.markCbReplaced (s : State) (d : Idx) : State :=
  { s with hz := { s.hz with cbReplaced := s.hz.cbReplaced || s.dmaActiveFor d } }

/-- `HZ_SLOT_OVERRUN` at an allocation under `OVERWRITE` that takes a bound slot (43_async.md R191). -/
def State.markOverrun (s : State) (k : Nat) : State :=
  { s with hz := { s.hz with slotOverrun := s.hz.slotOverrun || !(s.slot k).free } }

/-- `HZ_DUP_BINDING` at a binding of slot `k` to `p` while another slot is bound to `p` (43_async.md R193, 10_state.md R28). -/
def State.markDup (s : State) (k : Nat) (p : Idx) : State :=
  { s with hz := { s.hz with dupBinding := s.hz.dupBinding || s.boundElsewhere k p } }

/-- `HZ_UNMATCHED_IRQ` at an event whose identifier no slot is bound to (43_async.md R205). -/
def State.markUnmatched (s : State) : State := { s with hz := { s.hz with unmatchedIrq := true } }

end Sys2Proof.Machine
end

