-- ==== Sys2Proof/Machine/Polling.lean ====
section
/-! DEFINITION. The polling engine (42_polling.md), and the completion it shares with the FIFO adapter (R168). -/

namespace Sys2Proof.Machine

/-- An engine returns a status to S6; S9 is next (41_dispatch.md R149). -/
def State.engineReturn (s : State) (op : Instr) (x : Locals) (st : Status) : State := s.goto op .s9 { x with st := st }

/-- The transfer-complete wait: a timeout reconfigures the controller and returns TIMEOUT, else `ready` is next (R168). -/
def transferComplete (ready : Label) (op : Instr) (x : Locals) (s : State) : State :=
  let s1 := s.askTxcomp (s.busOfDesc x.d) (s.desc x.d).timeout
  match s.answerWait with
  | .timeout => s1.goto op .c1 { x with st := .timeout }
  | .ready => s1.goto op ready x

/-- `complete_sync(d)`, then SUCCESS is returned (R168, R169). -/
def completeSync (op : Instr) (x : Locals) (s : State) : State :=
  if s.callbackAdmitted (s.desc x.d).callback then
    ((s.invokeCallback (s.desc x.d).callback x.d (s.desc x.d).cbArgs).unlock x.d).engineReturn op x .success
  else s.refuse .callFromCallback

/-- PW1: byte 0 is staged (R162). -/
def pollW1 (op : Instr) (x : Locals) (s : State) : State :=
  ((s.cpuRead x.buf).emit (.startWrite (s.busOfDesc x.d) (s.target x.d) (s.cpuByte x.buf))).goto op .pw2 x

/-- PW2: the stop of a one-byte write (R162, R163). -/
def pollW2 (op : Instr) (x : Locals) (s : State) : State :=
  (if x.len = 1 then s.emit (.stop (s.busOfDesc x.d)) else s).goto op .pw3 x

/-- PW3: the acknowledgment of byte 0 (R162, R167). -/
def pollW3 (op : Instr) (x : Locals) (s : State) : State :=
  let s1 := s.askNack (s.busOfDesc x.d)
  if s.answerBit then s1.engineReturn op x .ack else s1.goto op .pw4 x

/-- PW4 (R162). -/
def pollW4 (op : Instr) (x : Locals) (s : State) : State := s.goto op .pw5 { x with i := 1 }

/-- PW5 (R162). -/
def pollW5 (op : Instr) (x : Locals) (s : State) : State := s.goto op (if x.i = x.len then .pw9 else .pw6) x

/-- PW6: a timeout ends the byte loop (R162, R166). -/
def pollW6 (op : Instr) (x : Locals) (s : State) : State :=
  let s1 := s.askTxrdy (s.busOfDesc x.d) (s.desc x.d).timeout
  match s.answerWait with
  | .timeout => s1.goto op .pw9 x
  | .ready => s1.goto op .pw7 x

/-- PW7: the acknowledgment of the byte sent last (R162, R167). -/
def pollW7 (op : Instr) (x : Locals) (s : State) : State :=
  let s1 := s.askNack (s.busOfDesc x.d)
  if s.answerBit then s1.engineReturn op x .ack else s1.goto op .pw8 x

/-- PW8: the next byte (R162, R170). -/
def pollW8 (op : Instr) (x : Locals) (s : State) : State :=
  ((s.cpuRead (x.buf + x.i)).emit (.writeByte (s.busOfDesc x.d) (s.cpuByte (x.buf + x.i)))).goto op .pw5
    { x with i := x.i + 1 }

/-- PW9: the stop of a longer write (R162, R163). -/
def pollW9 (op : Instr) (x : Locals) (s : State) : State :=
  (if 1 < x.len.toNat then s.emit (.stop (s.busOfDesc x.d)) else s).goto op .pw10 x

/-- PW10 (R162). -/
def pollW10 (op : Instr) (x : Locals) (s : State) : State := transferComplete .pw11 op x s

/-- PW11 (R162). -/
def pollW11 (op : Instr) (x : Locals) (s : State) : State := completeSync op x s

/-- PR1 (R164). -/
def pollR1 (op : Instr) (x : Locals) (s : State) : State :=
  (s.emit (.startRead (s.busOfDesc x.d) (s.target x.d))).goto op .pr2 { x with i := 0, aborted := false }

/-- PR2 (R164, R165). -/
def pollR2 (op : Instr) (x : Locals) (s : State) : State := s.goto op (if x.i = x.len - 1 then .pr6 else .pr3) x

/-- PR3: a timeout ends the byte loop (R164, R166). -/
def pollR3 (op : Instr) (x : Locals) (s : State) : State :=
  let s1 := s.askRxrdy (s.busOfDesc x.d) (s.desc x.d).timeout
  match s.answerWait with
  | .timeout => s1.goto op .pr6 { x with aborted := true }
  | .ready => s1.goto op .pr4 x

/-- PR4: a received byte is stored (R164, R170). -/
def pollR4 (op : Instr) (x : Locals) (s : State) : State :=
  ((s.askByte (s.busOfDesc x.d)).cpuWrite (x.buf + x.i) s.answerByte).goto op .pr5 x

/-- PR5 (R164, R167). -/
def pollR5 (op : Instr) (x : Locals) (s : State) : State :=
  let s1 := s.askNack (s.busOfDesc x.d)
  if s.answerBit then s1.engineReturn op x .ack else s1.goto op .pr2 { x with i := x.i + 1 }

/-- PR6: the stop, one byte early (R164, R165). -/
def pollR6 (op : Instr) (x : Locals) (s : State) : State := (s.emit (.stop (s.busOfDesc x.d))).goto op .pr7 x

/-- PR7: a timeout skips the final byte (R164, R166). -/
def pollR7 (op : Instr) (x : Locals) (s : State) : State :=
  let s1 := s.askRxrdy (s.busOfDesc x.d) (s.desc x.d).timeout
  match s.answerWait with
  | .timeout => s1.goto op .pr9 x
  | .ready => s1.goto op .pr8 x

/-- PR8: the final byte lands at the buffer's last address, or after an aborted loop at a drawn one of two addresses
(R164, R166; a drawn bit 1 is the last address). -/
def pollR8 (op : Instr) (x : Locals) (s : State) : State :=
  let s1 := s.askByte (s.busOfDesc x.d)
  let last := x.buf + x.len - 1
  (if x.aborted then s1.choose.cpuWrite (if s1.answerBit then last else x.buf + x.i) s.answerByte
   else s1.cpuWrite last s.answerByte).goto op .pr9 x

/-- PR9 (R164). -/
def pollR9 (op : Instr) (x : Locals) (s : State) : State := transferComplete .pr10 op x s

/-- PR10 (R164). -/
def pollR10 (op : Instr) (x : Locals) (s : State) : State := completeSync op x s

end Sys2Proof.Machine
end

