-- ==== Sys2Proof/Machine/Async.lean ====
section
/-! DEFINITION. The asynchronous transfer state machine (43_async.md): submission, and the interrupt handler. -/

namespace Sys2Proof.Machine

/-- Allocation of a slot under `SLOT_POLICY` (43_async.md R191, R192): the slot and the state with RR advanced. -/
def allocSlot (s : State) : Option (Nat × State) :=
  match s.cfg.slotPolicy with
  | .overwrite => some (s.rr, { s.markOverrun s.rr with rr := (s.rr + 1) % s.cfg.nSlots })
  | .failFast => (s.scanSlot).map (fun k => (k, { s with rr := (k + 1) % s.cfg.nSlots }))

/-- Binding slot `k` to the transfer (R193). -/
def bindSlot (k : Nat) (x : Locals) (s : State) : State :=
  let p := Config.pid s.cfg (s.busOfDesc x.d)
  (s.markDup k p).modifySlot k (fun y =>
    { y with
      desc := s.desc x.d
      owner := some x.d
      transferred := 0
      ptr := some (match x.dir with | .write => x.buf + 1 | .read => x.buf)
      size := (match x.dir with | .write => x.len - 1 | .read => x.len)
      pid := some p
      bufLo := x.buf
      bufHi := x.buf + x.len })

/-- A1: allocation and binding in one micro-step, or NO_SLOT (R190 to R193). -/
def asyncA1 (op : Instr) (x : Locals) (s : State) : State :=
  match allocSlot s with
  | some (k, s1) => (bindSlot k x s1).goto op .a2 { x with slot := some k }
  | none => s.engineReturn op x .noSlot

/-- A2: the shared handler is installed (R190, R194). -/
def asyncA2 (op : Instr) (x : Locals) (s : State) : State :=
  (s.emit (.irqSetHandler (Config.pid s.cfg (s.busOfDesc x.d)))).goto op .a3 x

/-- A3: the line is enabled (R190, R194). -/
def asyncA3 (op : Instr) (x : Locals) (s : State) : State :=
  (s.emit (.irqLineEnable (Config.pid s.cfg (s.busOfDesc x.d)))).goto op
    (match x.dir with | .write => .a4w | .read => .a4r) x

/-- A4w: byte 0 is staged (R190, R195). -/
def asyncA4w (op : Instr) (x : Locals) (s : State) : State :=
  ((s.cpuRead x.buf).emit (.startWrite (s.busOfDesc x.d) (s.target x.d) (s.cpuByte x.buf))).goto op .a5w x

/-- A5w (R190, R195). -/
def asyncA5w (op : Instr) (x : Locals) (s : State) : State :=
  (s.emit (.intEnable (s.busOfDesc x.d) evTxrdy)).goto op .a6 x

/-- A4r (R190, R196). -/
def asyncA4r (op : Instr) (x : Locals) (s : State) : State :=
  (s.emit (.intEnable (s.busOfDesc x.d) evRxrdy)).goto op .a5r x

/-- A5r (R190, R196). -/
def asyncA5r (op : Instr) (x : Locals) (s : State) : State :=
  (s.emit (.startRead (s.busOfDesc x.d) (s.target x.d))).goto op .a6 x

/-- A6 (R190). -/
def asyncA6 (op : Instr) (x : Locals) (s : State) : State := s.engineReturn op x .success

/-! ## The interrupt handler -/

/-- An event of an identifier no slot is bound to (43_async.md R205). -/
def unmatchedIrq (p : Idx) (s : State) : State :=
  (s.emit (.intDisable (Config.busOf s.cfg p) (evRxrdy ||| evTxrdy))).markUnmatched

/-- One past the last address of the caller's buffer, as a number (10_state.md R26). DEDUCED: `buf_hi` is 32 bits, so it is 0 for a buffer
that ends at the top of memory, and is then read as 2^32, by R202's own words that a receive faults where `transferred >= size` (log 15). -/
def Slot.bufEnd (y : Slot) : Nat := if y.bufHi = 0 ∧ y.bufLo ≠ 0 then 2 ^ 32 else y.bufHi.toNat

/-- The pointer of a slot is inside the caller's buffer (R202). -/
def Slot.inBuffer (y : Slot) : Bool :=
  match y.ptr with
  | some a => decide (y.bufLo.toNat ≤ a.toNat) && decide (a.toNat < y.bufEnd)
  | none => false

/-- One byte more was moved through a slot (R198, R199). -/
def Slot.advance (y : Slot) : Slot :=
  { y with ptr := y.ptr.map (· + 1), transferred := y.transferred + 1 }

/-- IRQ_RXRDY with its matched slot (R198, R202). -/
def rxrdyMatched (k : Nat) (s : State) : State :=
  let y := s.slot k
  let b := y.desc.bus
  let s1 := s.askByte b
  if y.inBuffer then
    let n := y.transferred + 1
    let s2 := (s1.cpuWrite (y.ptr.getD 0) s.answerByte).modifySlot k Slot.advance
    let s3 := if n = y.size then (s2.emit (.intDisable b evRxrdy)).emit (.intEnable b evTxcomp) else s2
    if n = y.size - 1 then s3.emit (.stop b) else s3
  else s1.raise (.rxOverrun k y.ptr)

/-- IRQ_TXRDY with its matched slot (R199). -/
def txrdyMatched (k : Nat) (s : State) : State :=
  let y := s.slot k
  let b := y.desc.bus
  if y.transferred = y.size then
    ((s.emit (.intDisable b evTxrdy)).emit (.intEnable b evTxcomp)).emit (.stop b)
  else
    match y.ptr with
    | some a => ((s.cpuRead a).emit (.writeByte b (s.cpuByte a))).modifySlot k Slot.advance
    | none => s.raise (.brokenSlot k)

/-- IRQ_TXCOMP with its matched slot (R200, R206). -/
def txcompMatched (p : Idx) (k : Nat) (s : State) : State :=
  let y := s.slot k
  match y.owner with
  | some d =>
    if s.callbackAdmitted y.desc.callback then
      let s1 := (s.emit (.irqLineDisable p)).emit (.intDisable y.desc.bus (evRxrdy ||| evTxrdy ||| evTxcomp))
      let s2 := s1.invokeCallback y.desc.callback d y.desc.cbArgs
      let s3 := match s.cfg.lockRelease with
        | .engineAfterCallback => s2.unlock d
        | .callbackOnly => s2
      s3.modifySlot k (fun z => { z with ptr := none, pid := none })
    else s.refuse .callFromCallback
  | none => s.raise (.brokenSlot k)

/-- IRQ_RXRDY p (43_async.md R197, R198, R205). -/
def execIrqRxrdy (p : Idx) (s : State) : Host.Outcome State Fault Refusal :=
  match s.matchSlot p with
  | some k => .next (rxrdyMatched k s)
  | none => .next (unmatchedIrq p s)

/-- IRQ_TXRDY p (R197, R199, R205). -/
def execIrqTxrdy (p : Idx) (s : State) : Host.Outcome State Fault Refusal :=
  match s.matchSlot p with
  | some k => .next (txrdyMatched k s)
  | none => .next (unmatchedIrq p s)

/-- IRQ_TXCOMP p (R197, R200, R205). -/
def execIrqTxcomp (p : Idx) (s : State) : Host.Outcome State Fault Refusal :=
  match s.matchSlot p with
  | some k => .next (txcompMatched p k s)
  | none => .next (unmatchedIrq p s)

/-- IRQ_NONE p: a matched entry changes nothing and emits nothing (R201, R205). -/
def execIrqNone (p : Idx) (s : State) : Host.Outcome State Fault Refusal :=
  match s.matchSlot p with
  | some _ => .next s
  | none => .next (unmatchedIrq p s)

end Sys2Proof.Machine
end

