-- ==== Sys2Proof/Machine/Configure.lean ====
section
/-! DEFINITION. CONFIGURE, the queries and the default callback (40_config.md). -/

namespace Sys2Proof.Machine

/-- C0 (40_config.md R120). -/
def configC0 (d : Idx) (s : State) : State :=
  if s.descOk d then s.goto (.configure d) .c1 (Locals.init d) else s.refuse .badDescField

/-- C1: the default timeout where none is set (R120). -/
def configC1 (op : Instr) (x : Locals) (s : State) : State :=
  (if (s.desc x.d).timeout = 0 then s.modifyDesc x.d (fun e => { e with timeout := s.cfg.defaultTimeout }) else s).goto
    op .c2 x

/-- C2 (R120). -/
def configC2 (op : Instr) (x : Locals) (s : State) : State :=
  (s.emit (.pmcEnable (Config.pid s.cfg (s.busOfDesc x.d)))).goto op .c3 x

/-- C3 (R120). -/
def configC3 (op : Instr) (x : Locals) (s : State) : State :=
  (s.emit (.twiConfigure (s.busOfDesc x.d) (s.desc x.d).freq)).goto op .c4 x

/-- The FIFO thresholds of step C4: half the depth, rounded down (R120). -/
def fifoHalf (s : State) (b : Idx) : Word := BitVec.ofNat 32 ((Config.bus s.cfg b).fifoDepth.toNat / 2)

/-- C4, then the label after it: C5 in CONFIGURE, S9 in a reconfiguration (R120, 42_polling.md R168). -/
def configC4 (next : Label) (op : Instr) (x : Locals) (s : State) : State :=
  (if (Config.bus s.cfg (s.busOfDesc x.d)).hasFifo ∧ (s.desc x.d).strategy = .fifo then
    s.emit (.fifoConfig (s.busOfDesc x.d) (fifoHalf s (s.busOfDesc x.d)) (fifoHalf s (s.busOfDesc x.d)))
  else s).goto op next x

/-- C5 (R120). -/
def configC5 (s : State) : State := s.finish .configure none

/-- CONFIGURE d, its next micro-step: C0 when it is issued, else the one FG stands at (40_config.md R120). -/
def execConfigure (d : Idx) (s : State) : Host.Outcome State Fault Refusal :=
  match s.fg with
  | .idle => .next (configC0 d s)
  | .busy op l x =>
    if op = .configure d then
      match l with
      | .c1 => .next (configC1 op x s)
      | .c2 => .next (configC2 op x s)
      | .c3 => .next (configC3 op x s)
      | .c4 => .next (configC4 .c5 op x s)
      | .c5 => .next (configC5 s)
      | _ => .refused .foregroundBusy
    else .refused .foregroundBusy

/-- IS_BUSY d: B1 returns the lock (40_config.md R122). -/
def execIsBusy (d : Idx) (s : State) : Host.Outcome State Fault Refusal :=
  match s.fg with
  | .idle => .next (s.finish .isBusy (some (boolWord (s.desc d).lock)))
  | .busy _ _ _ => .refused .foregroundBusy

/-- W1: returns when the lock is free, else the foreground is held at W1 (40_config.md R123, R124). -/
def waitW1 (d : Idx) (x : Locals) (s : State) : State :=
  if (s.desc d).lock then s.goto (.waitUntilIdle d) .w1 x else s.finish .waitUntilIdle none

/-- WAIT_UNTIL_IDLE d (40_config.md R123). -/
def execWaitUntilIdle (d : Idx) (s : State) : Host.Outcome State Fault Refusal :=
  match s.fg with
  | .idle => .next (waitW1 d (Locals.init d) s)
  | .busy op l x =>
    if op = .waitUntilIdle d ∧ l = .w1 then .next (waitW1 d x s) else .refused .foregroundBusy

/-- DEFAULT_CALLBACK d: K1 frees the lock (40_config.md R125). -/
def execDefaultCallback (d : Idx) (s : State) : Host.Outcome State Fault Refusal :=
  match s.fg with
  | .idle => .next ((s.unlock d).finish .defaultCallback none)
  | .busy _ _ _ => .refused .foregroundBusy

end Sys2Proof.Machine
end

