-- ==== Sys2Proof/Machine/Dma.lean ====
section
/-! DEFINITION. The DMA adapter, the DMA engine's byte step and the DMA completion (44_dma.md). -/

namespace Sys2Proof.Machine

/-- The channel of the transfer being set up; NONE only before M1, where no rule reads it (log 19). -/
def Locals.chan (x : Locals) : Idx := x.ch.getD 0

/-- M1: a drawn channel is taken, or the fault FLT_DMA_ALLOC (44_dma.md R231). DESIGN CHOICE: the five fields R231 does not name keep
what the channel held, until M3 writes them (log 33). -/
def dmaM1 (next : Label) (op : Instr) (x : Locals) (s : State) : State :=
  let s1 := (s.consume).emit (.dmaAlloc x.dir s.answerChan)
  match s.answerChan with
  | some c =>
    (s1.modifyChan c (fun y =>
      { y with active := true, desc := x.d, dir := x.dir, moved := 0, cbSet := false, started := false })).goto op next
      { x with ch := some c }
  | none => s1.raise (.dmaAlloc x.d x.dir)

/-- M2: the region descriptor (R232, R233). -/
def dmaM2 (next : Label) (op : Instr) (x : Locals) (s : State) : State :=
  (s.modifyDesc x.d (fun y => { y with regionAddr := x.buf, regionLen := x.len })).goto op next x

/-- M3 of a write: incrementing source, the transmit-holding register as fixed destination (R232). -/
def dmaM3w (op : Instr) (x : Locals) (s : State) : State :=
  (s.emit (.dmaConfig x.chan x.buf true (Config.bus s.cfg (s.busOfDesc x.d)).thr false x.len)).goto op .mw4 x

/-- M3 of a read: the receive-holding register as fixed source, incrementing destination (R233). -/
def dmaM3r (op : Instr) (x : Locals) (s : State) : State :=
  (s.emit (.dmaConfig x.chan (Config.bus s.cfg (s.busOfDesc x.d)).rhr false x.buf true x.len)).goto op .mr4 x

/-- M4: the clean over the region (R232, R233, R237). -/
def dmaM4 (next : Label) (op : Instr) (x : Locals) (s : State) : State :=
  (s.emit (.cacheClean (s.desc x.d).regionAddr (s.desc x.d).regionLen)).goto op next x

/-- M5 (R232, R233). -/
def dmaM5 (next : Label) (op : Instr) (x : Locals) (s : State) : State :=
  (s.emit (.dmaSetCallback x.chan)).goto op next x

/-- M6 of a read: a NACK frees the channel, clears the region and returns ACK (R233, R234). -/
def dmaM6r (op : Instr) (x : Locals) (s : State) : State :=
  let s1 := s.askNack (s.busOfDesc x.d)
  if s.answerBit then
    (((s1.emit (.dmaFree x.chan)).modifyDesc x.d (fun y => { y with regionAddr := 0, regionLen := 0 }))).engineReturn op x
      .ack
  else s1.goto op .mr7 x

/-- `DMA_START`: M6 of a write, M7 of a read (R232, R233). -/
def dmaStartStep (next : Label) (op : Instr) (x : Locals) (s : State) : State :=
  (s.emit (.dmaStart x.chan)).goto op next x

/-- The return with the lock still held: M7 of a write, M8 of a read (R232, R233, R236). -/
def dmaReturn (op : Instr) (x : Locals) (s : State) : State := s.engineReturn op x .success

/-- A channel has a byte to move (44_dma.md R238). -/
def Chan.running (y : Chan) : Bool := y.active && y.started && decide (y.moved.toNat < y.len.toNat)

/-- The source address of the next byte (R238). -/
def Chan.from (y : Chan) : Word := y.src + (if y.srcIncr then y.moved else 0)

/-- The destination address of the next byte (R238). -/
def Chan.to (y : Chan) : Word := y.dst + (if y.dstIncr then y.moved else 0)

/-- The DMA engine's byte step of channel `c`; a channel with nothing to move takes none (R238). -/
def dmaByteStep (c : Idx) (s : State) : State :=
  let y := s.chan c
  if y.running then
    ((s.dmaRead y.from).dmaWrite y.to (s.dmaByte y.from)).modifyChan c (fun z => { z with moved := z.moved + 1 })
  else s

/-- DMA_DONE c (44_dma.md R240). -/
def doneStep (c : Idx) (s : State) : State :=
  let y := s.chan c
  let d := y.desc
  let e := s.desc d
  if s.callbackAdmitted e.callback then
    let s1 := match y.dir with
      | .read => s.emit (.cacheInvalidate e.regionAddr e.regionLen)
      | .write => s
    let s2 := (s1.invokeCallback e.callback d e.cbArgs).emit (.dmaFree c)
    let s3 := match s.cfg.lockRelease with
      | .engineAfterCallback => s2.unlock d
      | .callbackOnly => s2
    s3.modifyDesc d (fun z => { z with regionAddr := 0, regionLen := 0 })
  else s.refuse .callFromCallback

/-- DMA_DONE c as one atomic interrupt step (R240). -/
def execDmaDone (c : Idx) (s : State) : Host.Outcome State Fault Refusal := .next (doneStep c s)

end Sys2Proof.Machine
end

