-- ==== Sys2Proof/Machine/Fifo.lean ====
section
/-! DEFINITION. The FIFO adapter (45_fifo.md). -/

namespace Sys2Proof.Machine

/-- The reads of `FIFO_WRITE`: `n` bytes from `a` up, in order (45_fifo.md R261). -/
def fifoReads : Nat → Word → State → State
  | 0, _, s => s
  | n + 1, a, s => fifoReads n (a + 1) (s.cpuRead a)

/-- The received bytes of a `FIFO_READ` that succeeded, all drawn, one event each, before the first store; and the state after the
draws (45_fifo.md R261). -/
def fifoDraws : Nat → State → List Byte × State
  | 0, s => ([], s)
  | n + 1, s => (s.answerByte :: (fifoDraws n s.drawByte).1, (fifoDraws n s.drawByte).2)

/-- The stores of a `FIFO_READ` that succeeded: the drawn bytes from `a` up, in order (R261). -/
def fifoWrites : List Byte → Word → State → State
  | [], _, s => s
  | v :: vs, a, s => fifoWrites vs (a + 1) (s.cpuWrite a v)

/-- The buffer after a `FIFO_READ` that failed: each byte, independently, is kept or receives a drawn value, by a drawn bit (R261).
DESIGN CHOICE: the bytes are taken by rising address, each with its bit, its value and its store before the next one's, where R261 gives
an order only to a read that succeeded (log 32). -/
def fifoReplaces : Nat → Word → State → State
  | 0, _, s => s
  | n + 1, a, s =>
    fifoReplaces n (a + 1)
      (if s.answerBit then s.choose.drawByte.cpuWrite a s.choose.answerByte else s.choose)

/-- What a `FIFO_READ` of `n` bytes to `a` does after its outcome is drawn (R261). -/
def fifoStores (ok : Bool) (n : Nat) (a : Word) (s : State) : State :=
  if ok then fifoWrites (fifoDraws n s).1 a (fifoDraws n s).2 else fifoReplaces n a s

/-- F1: the streaming command (R260, R261). DESIGN CHOICE: in the history `FIFO_WRITE` stands after its buffer reads and their
allocation draws, because its result is drawn last, and `FIFO_READ` before the draws and stores of its bytes, because its result decides them (log 32). -/
def fifoF1 (op : Instr) (x : Locals) (s : State) : State :=
  let b := s.busOfDesc x.d
  let t := (s.desc x.d).timeout
  match x.dir with
  | .write =>
    let s1 := fifoReads x.len.toNat x.buf s
    ((s1.consume).emit (.fifoWrite b (s.target x.d) x.buf x.len t s1.answerBit)).goto op .f2 { x with ok := s1.answerBit }
  | .read =>
    (fifoStores s.answerBit x.len.toNat x.buf
      ((s.consume).emit (.fifoRead b (s.target x.d) x.buf x.len t s.answerBit))).goto op .f2 { x with ok := s.answerBit }

/-- F2: a failure returns a drawn one of ACK and TIMEOUT (R260, R263; a drawn bit 1 is TIMEOUT). -/
def fifoF2 (op : Instr) (x : Locals) (s : State) : State :=
  if x.ok then s.goto op .f3 x
  else s.choose.engineReturn op x (if s.answerBit then .timeout else .ack)

/-- F3 (R260, R262). -/
def fifoF3 (op : Instr) (x : Locals) (s : State) : State := transferComplete .f4 op x s

/-- F4 (R260, R262). -/
def fifoF4 (op : Instr) (x : Locals) (s : State) : State := completeSync op x s

end Sys2Proof.Machine
end

