-- ==== Sys2Proof/Machine/Submit.lean ====
section
/-! DEFINITION. SUBMIT: the mode selector (41_dispatch.md) and the engines it runs. -/

namespace Sys2Proof.Machine

/-- S0 (41_dispatch.md R140, R141). -/
def submitS0 (op : Instr) (d : Idx) (s : State) : State :=
  if s.descOk d then s.goto op .s1 (Locals.init d) else s.refuse .badDescField

/-- S1: the callback is recorded before the lock is tried (R142). -/
def submitS1 (cb : Callback) (args : Word) (op : Instr) (x : Locals) (s : State) : State :=
  ((s.markCbReplaced x.d).modifyDesc x.d (fun e => { e with callback := cb, cbArgs := args })).goto op .s2 x

/-- S2: the try-lock (R143). -/
def submitS2 (op : Instr) (x : Locals) (s : State) : State :=
  if (s.desc x.d).lock then (s.takeLock x.d).finish .submit (some Status.lock.code)
  else (s.takeLock x.d).goto op .s3 x

/-- S3: exactly one buffer, or DUPLEX, or a refusal (R140, R147, R148). -/
def submitS3 (rx tx : Option Buffer) (op : Instr) (x : Locals) (s : State) : State :=
  match activeBuffer rx tx with
  | some (b, dir) => s.goto op .s4 { x with buf := b.addr, len := b.len, dir := dir }
  | none =>
    if (s.desc x.d).strategy = .dma then s.engineReturn op x .duplex else s.refuse .duplexUnchecked

/-- S4: the buffer check (R144). -/
def submitS4 (op : Instr) (x : Locals) (s : State) : State :=
  match bufferRefusal s.cfg x.buf x.len with
  | some r => s.refuse r
  | none => s.goto op .s5 x

/-- S5: the effective strategy (R145, R146). -/
def submitS5 (op : Instr) (x : Locals) (s : State) : State :=
  match effective s.cfg (s.desc x.d).strategy (s.busOfDesc x.d) x.len with
  | some e => s.goto op .s6 { x with eff := e }
  | none => s.refuse .noFifo

/-- S6: the engine's first micro-step is next (R149). -/
def submitS6 (op : Instr) (x : Locals) (s : State) : State := s.goto op (engineLabel x.eff x.dir) x

/-- S9: the lock is freed before an error is returned (R150). -/
def submitS9 (x : Locals) (s : State) : State :=
  (if x.st = .success then s else s.unlock x.d).finish .submit (some x.st.code)

/-- SUBMIT d, rx, tx, cb, args, its next micro-step: S0 when it is issued, else the one FG stands at (41_dispatch.md R140,
42_polling.md R162, R164, R168, 43_async.md R190, 44_dma.md R232, R233, 45_fifo.md R260). -/
def execSubmit (d : Idx) (rx tx : Option Buffer) (cb : Callback) (args : Word) (s : State) :
    Host.Outcome State Fault Refusal :=
  match s.fg with
  | .idle => .next (submitS0 (.submit d rx tx cb args) d s)
  | .busy op l x =>
    if op = .submit d rx tx cb args then
      match l with
      | .s1 => .next (submitS1 cb args op x s)
      | .s2 => .next (submitS2 op x s)
      | .s3 => .next (submitS3 rx tx op x s)
      | .s4 => .next (submitS4 op x s)
      | .s5 => .next (submitS5 op x s)
      | .s6 => .next (submitS6 op x s)
      | .s9 => .next (submitS9 x s)
      | .pw1 => .next (pollW1 op x s)
      | .pw2 => .next (pollW2 op x s)
      | .pw3 => .next (pollW3 op x s)
      | .pw4 => .next (pollW4 op x s)
      | .pw5 => .next (pollW5 op x s)
      | .pw6 => .next (pollW6 op x s)
      | .pw7 => .next (pollW7 op x s)
      | .pw8 => .next (pollW8 op x s)
      | .pw9 => .next (pollW9 op x s)
      | .pw10 => .next (pollW10 op x s)
      | .pw11 => .next (pollW11 op x s)
      | .pr1 => .next (pollR1 op x s)
      | .pr2 => .next (pollR2 op x s)
      | .pr3 => .next (pollR3 op x s)
      | .pr4 => .next (pollR4 op x s)
      | .pr5 => .next (pollR5 op x s)
      | .pr6 => .next (pollR6 op x s)
      | .pr7 => .next (pollR7 op x s)
      | .pr8 => .next (pollR8 op x s)
      | .pr9 => .next (pollR9 op x s)
      | .pr10 => .next (pollR10 op x s)
      | .a1 => .next (asyncA1 op x s)
      | .a2 => .next (asyncA2 op x s)
      | .a3 => .next (asyncA3 op x s)
      | .a4w => .next (asyncA4w op x s)
      | .a5w => .next (asyncA5w op x s)
      | .a4r => .next (asyncA4r op x s)
      | .a5r => .next (asyncA5r op x s)
      | .a6 => .next (asyncA6 op x s)
      | .mw1 => .next (dmaM1 .mw2 op x s)
      | .mw2 => .next (dmaM2 .mw3 op x s)
      | .mw3 => .next (dmaM3w op x s)
      | .mw4 => .next (dmaM4 .mw5 op x s)
      | .mw5 => .next (dmaM5 .mw6 op x s)
      | .mw6 => .next (dmaStartStep .mw7 op x s)
      | .mw7 => .next (dmaReturn op x s)
      | .mr1 => .next (dmaM1 .mr2 op x s)
      | .mr2 => .next (dmaM2 .mr3 op x s)
      | .mr3 => .next (dmaM3r op x s)
      | .mr4 => .next (dmaM4 .mr5 op x s)
      | .mr5 => .next (dmaM5 .mr6 op x s)
      | .mr6 => .next (dmaM6r op x s)
      | .mr7 => .next (dmaStartStep .mr8 op x s)
      | .mr8 => .next (dmaReturn op x s)
      | .f1 => .next (fifoF1 op x s)
      | .f2 => .next (fifoF2 op x s)
      | .f3 => .next (fifoF3 op x s)
      | .f4 => .next (fifoF4 op x s)
      | .c1 => .next (configC1 op x s)
      | .c2 => .next (configC2 op x s)
      | .c3 => .next (configC3 op x s)
      | .c4 => .next (configC4 .s9 op x s)
      | .c5 => .refused .foregroundBusy
      | .w1 => .refused .foregroundBusy
    else .refused .foregroundBusy

end Sys2Proof.Machine
end

