-- ==== Sys2Proof/Machine/Dispatch.lean ====
section
/-! DEFINITION. One arm per operation, each one direct call of its meaning. -/

namespace Sys2Proof.Machine

/-- The meaning of an operation: of a foreground operation its next micro-step, of an interrupt-context command its one step. -/
def exec (i : Instr) (s : State) : Host.Outcome State Fault Refusal :=
  match i with
  | .configure d => Sys2Proof.Machine.execConfigure d s
  | .submit d rx tx cb args => Sys2Proof.Machine.execSubmit d rx tx cb args s
  | .isBusy d => Sys2Proof.Machine.execIsBusy d s
  | .waitUntilIdle d => Sys2Proof.Machine.execWaitUntilIdle d s
  | .defaultCallback d => Sys2Proof.Machine.execDefaultCallback d s
  | .irqRxrdy p => Sys2Proof.Machine.execIrqRxrdy p s
  | .irqTxrdy p => Sys2Proof.Machine.execIrqTxrdy p s
  | .irqTxcomp p => Sys2Proof.Machine.execIrqTxcomp p s
  | .irqNone p => Sys2Proof.Machine.execIrqNone p s
  | .dmaDone c => Sys2Proof.Machine.execDmaDone c s

end Sys2Proof.Machine
end

