-- ==== Sys2Proof/Machine/Env.lean ====
section
/-! DEFINITION. The turns of the agents outside the block (20_memory.md R68, R69; 10_state.md R24; 60_exceptions.md R300), and how
`step` takes a command from its input. -/

namespace Sys2Proof.Machine

/-- A spontaneous fill of an absent line (20_memory.md R68). -/
def envFill (a : Word) (s : State) : State :=
  if s.cfg.dcacheEnabled && (s.line? a.toNat).isNone then s.fillLine a.toNat else s

/-- An eviction of a present line (20_memory.md R69). -/
def envEvict (a : Word) (s : State) : State :=
  if s.cfg.dcacheEnabled then s.evictLine a.toNat else s

/-- The host writes fields 0 to 6 of `D[d]` (10_state.md R24). -/
def hostWriteDesc (d : Idx) (h : HostDesc) (s : State) : State :=
  s.modifyDesc d (fun e =>
    { e with bus := h.bus, freq := h.freq, strategy := h.strategy, timeout := h.timeout, slave := h.slave
             iaddr := h.iaddr, isize := h.isize })

/-- The input is used up. -/
def State.popInput (s : State) : State := { s with inputs := s.inputs.tail }

/-- The input's first command is taken; the words after it stay as the next command (log 8). -/
def State.afterFetch (s : State) (rest : List Word) : State :=
  if rest = [] then s.popInput else { s with inputs := .command rest :: s.inputs.tail }

/-- What the environment presents is a draw and stands in the history, before what its step does (10_state.md R36, R38); an operation
the host issues is none (log 21). -/
def State.drawEvent (s : State) (i : Instr) : State := if i.opcode.foreground then s else s.record (.presented i)

/-- Whether the host issues the command a header starts, or, with an illegal opcode, anyone at all (30_encoding.md R92). -/
def hostIssues (h : Word) : Bool :=
  match Opcode.ofCode (hdrOp h) with
  | some o => o.foreground
  | none => true

/-- A command of the host waits while the foreground runs an operation (60_exceptions.md R300 row 1). -/
def State.waitsForForeground (s : State) (ws : List Word) : Bool :=
  match ws with
  | [] => false
  | h :: _ => hostIssues h && s.fg != .idle

/-- The foreground has no step of its own: it is Idle, or held at W1 by a lock (40_config.md R123). -/
def State.rests (s : State) : Bool :=
  match s.fg with
  | .idle => true
  | .busy (.waitUntilIdle d) _ _ => (s.desc d).lock
  | .busy _ _ _ => false

/-- The conditions under which the operation may be issued are made to hold, and the marks are clear (log 9). -/
def State.present (s : State) (i : Instr) : State :=
  let s := { s with fault := none, refused := none }
  match i with
  | .configure _ => { s with fg := .idle }
  | .submit _ _ _ _ _ => { s with fg := .idle }
  | .isBusy _ => { s with fg := .idle }
  | .waitUntilIdle _ => { s with fg := .idle }
  | .defaultCallback _ => { s with fg := .idle }
  | .irqRxrdy p => s.modifyCtl (Config.busOf s.cfg p)
      (fun x => { x with line := true, vec := .shared, inten := x.inten ||| evRxrdy })
  | .irqTxrdy p => s.modifyCtl (Config.busOf s.cfg p)
      (fun x => { x with line := true, vec := .shared, inten := x.inten ||| evTxrdy })
  | .irqTxcomp p => s.modifyCtl (Config.busOf s.cfg p)
      (fun x => { x with line := true, vec := .shared, inten := x.inten ||| evTxcomp })
  | .irqNone p => s.modifyCtl (Config.busOf s.cfg p) (fun x => { x with line := true, vec := .shared })
  | .dmaDone c => s.modifyChan c
      (fun x => { x with active := true, started := true, cbSet := true, moved := x.len })

/-- The commands of a table word are the first input, deliverable (log 9). -/
def State.load (s : State) (ws : List Word) : State :=
  let s := { s with inputs := .command ws :: s.inputs }
  match decode s.cfg ws with
  | .ok (i, _) => s.present i
  | .error _ => { s with fault := none, refused := none, fg := .idle }

end Sys2Proof.Machine
end

