-- ==== Sys2Proof/Machine/Step.lean ====
section
/-! DEFINITION. One step of the machine: the turn of the agent the input names, the foreground's where none is named. -/

namespace Sys2Proof.Machine

/-- The foreground's turn: the next micro-step of the operation in progress, nothing while FG is Idle. -/
def foregroundTurn (s : State) : Host.Outcome State Fault Refusal :=
  match s.fg with
  | .idle => .next s
  | .busy op _ _ => exec op s

/-- A command of the input: a host's command waits for the foreground (log 5), a rejected one is refused, an event that may
not be presented is passed over (log 4), every other is run, and an event stands in the history before what it does. -/
def commandTurn (ws : List Word) (s : State) : Host.Outcome State Fault Refusal :=
  if ws = [] then .next s.popInput
  else if s.waitsForForeground ws then foregroundTurn s
  else
    match decode s.cfg ws with
    | .error r => .next (s.popInput.refuse (Refusal.ofReject r))
    | .ok (i, rest) => if s.mayIssue i then exec i ((s.afterFetch rest).drawEvent i) else .next (s.afterFetch rest)

/-- One step. A state with FAULT or REFUSED set has no further step (10_state.md R34). -/
def step (s : State) : Host.Outcome State Fault Refusal :=
  match s.fault with
  | some f => .fault f
  | none =>
    match s.refused with
    | some r => .refused r
    | none =>
      match s.inputs with
      | [] => foregroundTurn s
      | .command ws :: _ => commandTurn ws s
      | .foreground :: _ => foregroundTurn s.popInput
      | .settle :: _ => if s.rests then .next s.popInput else foregroundTurn s
      | .dmaByte c :: _ => .next (dmaByteStep c s.popInput)
      | .fill a :: _ => .next (envFill a s.popInput)
      | .evict a :: _ => .next (envEvict a s.popInput)
      | .hostDesc d h :: _ => if s.fg = .idle then .next (hostWriteDesc d h s.popInput) else foregroundTurn s
      | .hostRead a :: _ => .next (s.popInput.cpuRead a)
      | .hostWrite a v :: _ => .next (s.popInput.cpuWrite a v)

/-- `s` with the instruction whose bits are `w` as its next input, so that the very next step runs it (log 9). -/
def State.withFetchWord (s : State) (nbits w : Nat) : State := s.load (tableWords nbits w)

end Sys2Proof.Machine
end

