-- ==== Sys2Proof/Machine/Asm.lean ====
section
/-! DEFINITION. The assembler syntax of 30_encoding.md R104: one command per line, with the pseudo-instructions `write` and `read`.
Spaces may stand where the rule's forms have one, numbers must fit their field, and operands keep the rule's order (log 30). -/

namespace Sys2Proof.Machine.Asm

/-- The characters after leading spaces. -/
def skipSpaces : List Char → List Char
  | [] => []
  | c :: r => if c = ' ' then skipSpaces r else c :: r

/-- The characters after a literal text. -/
def lit : List Char → List Char → Option (List Char)
  | [], r => some r
  | _ :: _, [] => none
  | c :: cs, x :: r => if c = x then lit cs r else none

/-- The characters after a comma and the spaces round it. -/
def comma (r : List Char) : Option (List Char) := (lit [','] (skipSpaces r)).map skipSpaces

/-- The value of a digit, below a base. -/
def digit (base : Nat) (c : Char) : Option Nat :=
  let n := c.toNat
  let v :=
    if 48 ≤ n ∧ n ≤ 57 then some (n - 48)
    else if 97 ≤ n ∧ n ≤ 102 then some (n - 87)
    else if 65 ≤ n ∧ n ≤ 70 then some (n - 55)
    else none
  v.filter (fun k => decide (k < base))

/-- The digits at the front, after `acc`. -/
def digits (base acc : Nat) : List Char → Nat × List Char
  | [] => (acc, [])
  | c :: r =>
    match digit base c with
    | some k => digits base (base * acc + k) r
    | none => (acc, c :: r)

/-- At least one digit. -/
def digits1 (base : Nat) : List Char → Option (Nat × List Char)
  | [] => none
  | c :: r => (digit base c).map (fun k => digits base k r)

/-- A number in decimal or C-style hexadecimal. -/
def number (r : List Char) : Option (Nat × List Char) :=
  match lit ['0', 'x'] r with
  | some r => digits1 16 r
  | none => digits1 10 r

/-- A number that fits a field of `w` bits. -/
def field (w : Nat) (r : List Char) : Option (BitVec w × List Char) := do
  let (n, r) ← number r
  if n < 2 ^ w then some (BitVec.ofNat w n, r) else none

/-- `<addr>:<len>`. -/
def buffer (r : List Char) : Option (Buffer × List Char) := do
  let (a, r) ← field 32 r
  let r ← lit [':'] r
  let (n, r) ← field 32 r
  some (⟨a, n⟩, r)

/-- `<addr>:<len> | none`. -/
def optBuffer (r : List Char) : Option (Option Buffer × List Char) :=
  match lit "none".toList r with
  | some r => some (none, r)
  | none => (buffer r).map (fun (b, r) => (some b, r))

/-- `none | default | user(<uid>[,rel])`. -/
def callback (r : List Char) : Option (Callback × List Char) :=
  match lit "none".toList r with
  | some r => some (.none, r)
  | none =>
    match lit "default".toList r with
    | some r => some (.default, r)
    | none => do
      let r ← lit "user(".toList r
      let (u, r) ← field 24 r
      match lit [')'] r with
      | some r => some (.user u false, r)
      | none => do
        let r ← lit "rel)".toList (← comma r)
        some (.user u true, r)

/-- `, cb=…`, `none` where it is omitted. -/
def optCallback (r : List Char) : Option (Callback × List Char) :=
  match (comma r).bind (lit "cb=".toList) with
  | some r => callback r
  | none => some (.none, r)

/-- `, args=<v>`, 0 where it is omitted. -/
def optArgs (r : List Char) : Option (Word × List Char) :=
  match (comma r).bind (lit "args=".toList) with
  | some r => field 32 r
  | none => some (0, r)

/-- The operand of a form: a letter and an 8-bit number. -/
def index (letter : Char) (r : List Char) : Option (Idx × List Char) := (lit [letter] r).bind (field 8)

/-- The whole operand of a one-operand form. -/
def only (letter : Char) (mk : Idx → Instr) (r : List Char) : Option Instr := do
  let (n, r) ← index letter r
  if skipSpaces r = [] then some (mk n) else none

/-- The end of a transfer line: the callback and the arguments. -/
def tail (mk : Callback → Word → Instr) (r : List Char) : Option Instr := do
  let (cb, r) ← optCallback r
  let (args, r) ← optArgs r
  if skipSpaces r = [] then some (mk cb args) else none

/-- `submit d<n>, rx=…, tx=…, cb=…, args=<v>`. -/
def submit (r : List Char) : Option Instr := do
  let (d, r) ← index 'd' r
  let (rx, r) ← optBuffer (← lit "rx=".toList (← comma r))
  let (tx, r) ← optBuffer (← lit "tx=".toList (← comma r))
  tail (fun cb args => .submit d rx tx cb args) r

/-- `write d<n>, <addr>:<len>, cb=…, args=<v>` and `read …`. -/
def transfer (mk : Idx → Buffer → Callback → Word → Instr) (r : List Char) : Option Instr := do
  let (d, r) ← index 'd' r
  let (b, r) ← buffer (← comma r)
  tail (mk d b) r

/-- The mnemonics of R104 and what stands after each. -/
def forms : List (List Char × (List Char → Option Instr)) := [
  ("configure ".toList, only 'd' .configure),
  ("submit ".toList, submit),
  ("is_busy ".toList, only 'd' .isBusy),
  ("wait_until_idle ".toList, only 'd' .waitUntilIdle),
  ("default_cb ".toList, only 'd' .defaultCallback),
  ("irq.rxrdy ".toList, only 'p' .irqRxrdy),
  ("irq.txrdy ".toList, only 'p' .irqTxrdy),
  ("irq.txcomp ".toList, only 'p' .irqTxcomp),
  ("irq.none ".toList, only 'p' .irqNone),
  ("dma_done ".toList, only 'c' .dmaDone),
  ("write ".toList, transfer .write),
  ("read ".toList, transfer .read)]

/-- The operation a line stands for, none where the line is not of the syntax. -/
def parse (line : String) : Option Instr :=
  forms.findSome? (fun f => (lit f.1 (skipSpaces line.toList)).bind (fun r => f.2 (skipSpaces r)))

/-- The words a line assembles to. -/
def assemble (line : String) : Option (List Word) := (parse line).map encode

end Sys2Proof.Machine.Asm
end

