-- ==== Sys2Proof/Safety.lean ====
section
/-! DEFINITION. What claims speak of: the trace of emitted commands, uninterrupted runs of an operation, the states at which a run
ends or rests (70_reset_and_hazards.md R350, R351), and the invariant of the machine. -/

namespace Sys2Proof.Machine

/-! ## Traces -/

/-- The command of an event, where it is one. -/
def Event.cmd? : Event → Option Cmd
  | .cmd c => some c
  | _ => none

/-- The commands among events, in order. -/
def cmdsOf (l : List Event) : List Cmd := l.filterMap Event.cmd?

/-- The block's command trace (00_scope.md R12). -/
def State.trace (s : State) : List Cmd := cmdsOf s.hist

/-- A command is a STOP. -/
def Cmd.isStop : Cmd → Bool
  | .stop _ => true
  | _ => false

/-- A command is a READ_NACK. -/
def Cmd.isNackRead : Cmd → Bool
  | .readNack _ _ => true
  | _ => false

/-- A command is a CALLBACK event. -/
def Cmd.isCallback : Cmd → Bool
  | .callback _ _ _ _ => true
  | _ => false

/-- A command is of the interrupt, DMA or cache interfaces: `INT_*`, `IRQ_*`, `DMA_*`, `CACHE_*`. -/
def Cmd.isAsyncOrDma : Cmd → Bool
  | .intEnable _ _ => true
  | .intDisable _ _ => true
  | .irqSetHandler _ => true
  | .irqLineEnable _ => true
  | .irqLineDisable _ => true
  | .dmaAlloc _ _ => true
  | .dmaConfig _ _ _ _ _ _ => true
  | .dmaSetCallback _ => true
  | .dmaStart _ => true
  | .dmaFree _ => true
  | .cacheClean _ _ => true
  | .cacheInvalidate _ _ => true
  | _ => false

/-- A command whose drawn result is a NACK, a timeout or a failure. -/
def Cmd.failed : Cmd → Bool
  | .readNack _ r => r
  | .waitTxrdy _ _ r => r == .timeout
  | .waitRxrdy _ _ r => r == .timeout
  | .waitTxcomp _ _ r => r == .timeout
  | .fifoWrite _ _ _ _ _ ok => !ok
  | .fifoRead _ _ _ _ _ ok => !ok
  | _ => false

/-- A command waits for the controller. -/
def Cmd.isWait : Cmd → Bool
  | .waitTxrdy _ _ _ => true
  | .waitRxrdy _ _ _ => true
  | .waitTxcomp _ _ _ => true
  | _ => false

/-- A command starts or stops a bus transaction, or waits for it, or changes the interrupt enables: `START_*`, `STOP`, `WAIT_*`,
`INT_*`. -/
def Cmd.isBus : Cmd → Bool
  | .startWrite _ _ _ => true
  | .startRead _ _ => true
  | .stop _ => true
  | .waitTxrdy _ _ _ => true
  | .waitRxrdy _ _ _ => true
  | .waitTxcomp _ _ _ => true
  | .intEnable _ _ => true
  | .intDisable _ _ => true
  | _ => false

/-- The CALLBACK events of one callback invocation (40_config.md R127). -/
def callbackCmds (cb : Callback) (d : Idx) (args : Word) : List Cmd :=
  match cb with
  | .none => []
  | .default => [.callback .default 0 d args]
  | .user uid _ => [.callback .user uid d args]

/-- The callback releases the busy lock of the descriptor it is passed (40_config.md R127). -/
def freesLock : Callback → Bool
  | .none => false
  | .default => true
  | .user _ rel => rel

/-- An event is the return of an operation. -/
def Event.isRet : Event → Bool
  | .ret _ _ => true
  | _ => false

/-- An event is an access of a buffer byte by the CPU. -/
def Event.isCpuAccess : Event → Bool
  | .cpuRead _ _ => true
  | .cpuWrite _ _ => true
  | _ => false

/-! ## Slots and identifiers -/

/-- Slot `k` holds `y`, is bound to `p`, and no lower slot is (43_async.md R197). -/
def State.lowestBound (s : State) (p : Idx) (k : Nat) (y : Slot) : Prop :=
  s.slots[k]? = some y ∧ y.pid = some p ∧ ∀ j z, j < k → s.slots[j]? = some z → z.pid ≠ some p

/-- No slot is bound to `p` (43_async.md R205). -/
def State.unbound (s : State) (p : Idx) : Prop := ∀ y ∈ s.slots, y.pid ≠ some p

/-! ## Runs of one operation -/

/-- `n` micro-steps of an operation with no other agent's step between them. -/
def runOp (i : Instr) : Nat → State → Host.Outcome State Fault Refusal
  | 0, s => .next s
  | n + 1, s =>
    match exec i s with
    | .next t => runOp i n t
    | .fault f => .fault f
    | .refused r => .refused r

/-! ## Where a run ends or rests -/

/-- A state with FAULT or REFUSED set is final (R351). -/
def State.final (s : State) : Bool := s.fault.isSome || s.refused.isSome

/-- A quiescent state (R350). -/
def State.quiescent (s : State) : Bool :=
  s.fg == .idle && s.slots.all Slot.free && s.chans.all (fun y => !y.active) && s.descs.all (fun x => !x.lock)

/-- The foreground is held by WAIT_UNTIL_IDLE d (40_config.md R123). -/
def State.heldBy (s : State) (d : Idx) : Prop :=
  ∃ x, s.fg = .busy (.waitUntilIdle d) .w1 x ∧ (s.desc d).lock = true

/-! ## The invariant -/

/-- The tables have the sizes the parameters give them and RR points into the slot table (10_state.md R23, R26, R29, R30, R31). -/
def State.sized (s : State) : Prop :=
  s.descs.length = s.cfg.nDesc ∧ s.slots.length = s.cfg.nSlots ∧ s.chans.length = s.cfg.nDmaCh ∧
  s.ctl.length = s.cfg.buses.length ∧ s.rr < s.cfg.nSlots

/-- Memory and cache keep their canonical forms (20_memory.md R60, R65). -/
def State.memOk (s : State) : Prop := Memory.wf s.mem = true ∧ Cache.wf s.cfg s.cache = true

/-- A bound slot is whole: it has a pointer and an owner, its identifier is its bus's, it has moved no more than its size, and
its pointer is the buffer's end less what is left to move (10_state.md R26, R27; 43_async.md R193, R202). -/
def Slot.bound (cfg : Config) (y : Slot) : Prop :=
  ∃ p a o, y.pid = some p ∧ y.ptr = some a ∧ y.owner = some o ∧
    o.toNat < cfg.nDesc ∧ y.desc.bus.toNat < cfg.buses.length ∧ Config.pid cfg y.desc.bus = p ∧
    1 ≤ y.size.toNat ∧ y.transferred.toNat ≤ y.size.toNat ∧
    y.bufLo.toNat + (y.size.toNat - y.transferred.toNat) ≤ y.bufEnd ∧
    a.toNat = (y.bufEnd - (y.size.toNat - y.transferred.toNat)) % 2 ^ 32

/-- A slot is either free or bound to exactly one identifier (10_state.md R27). -/
def Slot.ok (cfg : Config) (y : Slot) : Prop := y.free = true ∨ y.bound cfg

/-- The micro-steps of CONFIGURE (40_config.md R120). -/
def Label.ofConfigure : Label → Bool
  | .c1 | .c2 | .c3 | .c4 | .c5 => true
  | _ => false

/-- The micro-steps of SUBMIT before its buffer is checked, and those after its engine returned a status. -/
def Label.ofSelector : Label → Bool
  | .s1 | .s2 | .s3 | .s4 | .s9 | .c1 | .c2 | .c3 | .c4 => true
  | _ => false

/-- The micro-steps of SUBMIT with a checked buffer: S5, S6 and the engines'. -/
def Label.ofEngine : Label → Bool
  | .c1 | .c2 | .c3 | .c4 | .c5 | .w1 | .s1 | .s2 | .s3 | .s4 | .s9 => false
  | _ => true

/-- A DMA channel has moved no more than its length, nothing before it was started, and belongs to a descriptor of the table
(10_state.md R30, 44_dma.md R231, R238). -/
def Chan.ok (cfg : Config) (y : Chan) : Prop :=
  y.moved.toNat ≤ y.len.toNat ∧ (y.started = false → y.moved = 0) ∧ y.desc.toNat < cfg.nDesc

/-- The micro-steps of the DMA adapter between taking the channel and starting it (44_dma.md R232, R233). -/
def Label.holdsChannel : Label → Bool
  | .mw2 | .mw3 | .mw4 | .mw5 | .mw6 | .mr2 | .mr3 | .mr4 | .mr5 | .mr6 | .mr7 => true
  | _ => false

/-- Between taking its channel and starting it the adapter holds an active channel of its descriptor that has not started. -/
def State.holdsChannel (s : State) (x : Locals) : Prop :=
  ∃ c, x.ch = some c ∧ c.toNat < s.cfg.nDmaCh ∧ (s.chan c).active = true ∧ (s.chan c).desc = x.d ∧
    (s.chan c).started = false

/-- FG stands at a micro-step of its operation, with the facts the steps before it have checked: the descriptor's (41_dispatch.md
R141), the buffer's (R144), and that an asynchronous transfer has at least two bytes (R145). -/
def State.fgOk (s : State) : Prop :=
  match s.fg with
  | .idle => True
  | .busy (.configure d) l x => l.ofConfigure = true ∧ x.d = d ∧ d.toNat < s.cfg.nDesc ∧ s.descOk d = true
  | .busy (.submit d _ _ _ _) l x =>
    x.d = d ∧ d.toNat < s.cfg.nDesc ∧ s.descOk d = true ∧
    (l.ofSelector = true ∨
      (l.ofEngine = true ∧ x.len ≠ 0 ∧ x.buf.toNat + x.len.toNat ≤ 2 ^ 32 ∧
        (l = .s6 ∧ x.eff = .async → x.len ≠ 1) ∧ (l = .a1 → x.len ≠ 1) ∧
        (l.holdsChannel = true → s.holdsChannel x)))
  | .busy (.waitUntilIdle d) l x => l = .w1 ∧ x.d = d ∧ d.toNat < s.cfg.nDesc
  | .busy _ _ _ => False

/-- The invariant every step keeps. -/
structure State.Inv (s : State) : Prop where
  cfg : s.cfg.wf = true
  sized : s.sized
  mem : s.memOk
  slots : ∀ y ∈ s.slots, Slot.ok s.cfg y
  chans : ∀ y ∈ s.chans, Chan.ok s.cfg y
  fg : s.fgOk

end Sys2Proof.Machine
end

