-- ==== Sys2Proof/Certificates/Slice0/Obligations.lean ====
section
/-! DEFINITION. The statements for the provers, from the numbered rules of the spec. Where a statement writes the next state as
`{ s with … }`, every field it does not name is unchanged: that is the instruction's frame. -/

section
open Sys2Proof Sys2Proof.Machine

/-! ## Encoding -/

/-- 30_encoding.md R105: the worked encodings, from their assembler lines and back from their words. -/
def Obligations.WorkedEncodings : Prop :=
  Asm.assemble "submit d0, rx=none, tx=0x20000000:1, cb=default, args=0" =
    some [0x00020002, 0x00000000, 0x00000000, 0x20000000, 0x00000001, 0x00000001, 0x00000000] ∧
  Asm.assemble "read d1, 0x20001000:3, cb=user(5,rel)" =
    some [0x00010102, 0x20001000, 0x00000003, 0x00000000, 0x00000000, 0x00000506, 0x00000000] ∧
  Asm.assemble "irq.txrdy p19" = some [0x00001311] ∧
  Asm.assemble "dma_done c2" = some [0x00000220] ∧
  Asm.assemble "configure d3" = some [0x00000301] ∧
  ∀ cfg : Config, 4 ≤ cfg.nDesc → cfg.knowsPid 19 = true → 3 ≤ cfg.nDmaCh →
    decode cfg [0x00020002, 0x00000000, 0x00000000, 0x20000000, 0x00000001, 0x00000001, 0x00000000] =
      .ok (.submit 0 none (some ⟨0x20000000, 1⟩) .default 0, []) ∧
    decode cfg [0x00010102, 0x20001000, 0x00000003, 0x00000000, 0x00000000, 0x00000506, 0x00000000] =
      .ok (.submit 1 (some ⟨0x20001000, 3⟩) none (.user 5 true) 0, []) ∧
    decode cfg [0x00001311] = .ok (.irqTxrdy 19, []) ∧
    decode cfg [0x00000220] = .ok (.dmaDone 2, []) ∧
    decode cfg [0x00000301] = .ok (.configure 3, [])

/-- 30_encoding.md R91 to R95, R102, R103: a well-formed operation is read back from its words, with every operand, and the words
after them are left. -/
def Obligations.DecodeOfEncode : Prop :=
  ∀ (cfg : Config) (i : Instr) (rest : List Word), i.wf cfg = true →
    decode cfg (encode i ++ rest) = .ok (i, rest)

/-- 30_encoding.md R91 to R95, R101, R102, R103: what the decoder admits is a well-formed operation, and its words are that
operation's only words. -/
def Obligations.EncodeOfDecode : Prop :=
  ∀ (cfg : Config) (ws rest : List Word) (i : Instr), decode cfg ws = .ok (i, rest) →
    i.wf cfg = true ∧ ws = encode i ++ rest

/-- 30_encoding.md R103 (with R93 to R95): the checks of the decode procedure, in its order, on a header and the words after it, and
the operands read where none refuses. The bits are taken arithmetically: `v / 2 ^ k % 2` is bit `k`. -/
def Obligations.DecodeProcedure : Prop :=
  ∀ (cfg : Config) (h : Word) (ws : List Word),
    let op := h.toNat % 256
    let arg := h.toNat / 256 % 256
    let rxp := h.toNat / 2 ^ 16 % 2
    let txp := h.toNat / 2 ^ 17 % 2
    let w := fun k => (ws.getD k 0).toNat
    (op = 2 → 6 ≤ ws.length) →
    let refusal : Option Reject :=
      if op ∉ [0x01, 0x02, 0x03, 0x04, 0x05, 0x10, 0x11, 0x12, 0x13, 0x20] then some .illegalOpcode
      else if h.toNat / 2 ^ 18 ≠ 0 then some .reservedBits
      else if op ≠ 2 ∧ (rxp ≠ 0 ∨ txp ≠ 0) then some .reservedBits
      else if op ∈ [0x01, 0x02, 0x03, 0x04, 0x05] ∧ cfg.nDesc ≤ arg then some .badDesc
      else if op = 2 ∧ rxp = 0 ∧ (w 0 ≠ 0 ∨ w 1 ≠ 0) then some .reservedBits
      else if op = 2 ∧ txp = 0 ∧ (w 2 ≠ 0 ∨ w 3 ≠ 0) then some .reservedBits
      else if op = 2 ∧ (w 4 % 4 = 3 ∨ w 4 / 8 % 32 ≠ 0 ∨ w 4 % 4 ≠ 2 ∧ (w 4 / 4 % 2 ≠ 0 ∨ w 4 / 256 ≠ 0)) then
        some .reservedBits
      else if op ∈ [0x10, 0x11, 0x12, 0x13] ∧ ∀ b ∈ cfg.buses, b.pid.toNat ≠ arg then some .unknownPid
      else if op = 0x20 ∧ cfg.nDmaCh ≤ arg then some .badChannel
      else none
    match refusal with
    | some r => decode cfg (h :: ws) = .error r
    | none => ∃ i, decode cfg (h :: ws) = .ok (i, if op = 2 then ws.drop 6 else ws) ∧
      match i with
      | .configure d => op = 0x01 ∧ d.toNat = arg
      | .submit d rx tx cb args => op = 0x02 ∧ d.toNat = arg ∧
          rx = (if rxp = 1 then some ⟨ws.getD 0 0, ws.getD 1 0⟩ else none) ∧
          tx = (if txp = 1 then some ⟨ws.getD 2 0, ws.getD 3 0⟩ else none) ∧
          cb = (if w 4 % 4 = 0 then .none else if w 4 % 4 = 1 then .default
            else .user (BitVec.ofNat 24 (w 4 / 256)) (decide (w 4 / 4 % 2 = 1))) ∧
          args = ws.getD 5 0
      | .isBusy d => op = 0x03 ∧ d.toNat = arg
      | .waitUntilIdle d => op = 0x04 ∧ d.toNat = arg
      | .defaultCallback d => op = 0x05 ∧ d.toNat = arg
      | .irqRxrdy p => op = 0x10 ∧ p.toNat = arg
      | .irqTxrdy p => op = 0x11 ∧ p.toNat = arg
      | .irqTxcomp p => op = 0x12 ∧ p.toNat = arg
      | .irqNone p => op = 0x13 ∧ p.toNat = arg
      | .dmaDone c => op = 0x20 ∧ c.toNat = arg

/-! ## The step -/

/-- A step runs the decoded instruction (log 3, log 5, log 8). A command at the head of the input that decodes to an operation which
may be issued is that operation's `exec`, on the state without the command's words and with an interrupt-context command recorded as the
draw it is (10_state.md R36, R38). While an operation is in progress its next
micro-step is its `exec`: with no input, at the input `foreground`, and while the host's next command waits. Idle, the foreground has
no step. -/
def Obligations.StepRunsDecoded : Prop :=
  ∀ (s : State) (more : List Input), s.fault = none → s.refused = none →
    (∀ i rest, s.inputs = .command (encode i ++ rest) :: more → i.wf s.cfg = true → s.mayIssue i = true →
      step s = exec i { s with
        inputs := if rest = [] then more else .command rest :: more
        hist := s.hist ++ if i.opcode.foreground = true then [] else [.presented i] }) ∧
    (∀ op l x, s.fg = .busy op l x →
      (s.inputs = [] → step s = exec op s) ∧
      (s.inputs = .foreground :: more → step s = exec op { s with inputs := more }) ∧
      (∀ i rest, i.opcode.foreground = true → s.inputs = .command (encode i ++ rest) :: more → step s = exec op s)) ∧
    (s.fg = .idle → s.inputs = [] → step s = .next s)

/-- 10_state.md R34: the marks are clear at launch, and a state with one set has no further step, so none clears a mark. A command the
decoder refuses sets one and changes nothing else but the input it stood in (30_encoding.md R101, 60_exceptions.md R277); that it is
taken from the input, with the words after it, is the model's choice (log 3, log 26). -/
def Obligations.MarkedStateStops : Prop :=
  (∀ cfg hs m, (State.launch cfg hs m).fault = none ∧ (State.launch cfg hs m).refused = none) ∧
  (∀ s : State, (s.fault ≠ none ∨ s.refused ≠ none) → ∀ t, step s ≠ .next t) ∧
  (∀ (s : State) (ws : List Word) (more : List Input) (r : Reject),
    s.fault = none → s.refused = none → s.fg = .idle → s.inputs = .command ws :: more → ws ≠ [] →
    decode s.cfg ws = .error r →
    step s = .next { s with inputs := more, refused := some (Refusal.ofReject r) })

/-- 60_exceptions.md R281, R282, 44_dma.md R239: an interrupt event or a completion that may not be presented is passed over, and
one that may be is presented; which is which (log 4). -/
def Obligations.EventsUnderTheirConditions : Prop :=
  ∀ (s : State) (p c : Idx),
    (∀ i ∈ [Instr.irqRxrdy p, .irqTxrdy p, .irqTxcomp p, .irqNone p], s.cfg.irqFilter = .any →
      (s.mayIssue i = true ↔ s.lineOn p = true ∧ s.vec p = .shared)) ∧
    (s.cfg.irqFilter = .enabledOnly →
      (s.mayIssue (.irqRxrdy p) = true ↔ s.lineOn p = true ∧ s.vec p = .shared ∧ (s.inten p).getLsbD 0 = true) ∧
      (s.mayIssue (.irqTxrdy p) = true ↔ s.lineOn p = true ∧ s.vec p = .shared ∧ (s.inten p).getLsbD 1 = true) ∧
      (s.mayIssue (.irqTxcomp p) = true ↔ s.lineOn p = true ∧ s.vec p = .shared ∧ (s.inten p).getLsbD 2 = true) ∧
      s.mayIssue (.irqNone p) = false) ∧
    (s.mayIssue (.dmaDone c) = true ↔
      (s.chan c).active = true ∧ (s.chan c).started = true ∧ (s.chan c).cbSet = true ∧ (s.chan c).moved = (s.chan c).len) ∧
    (∀ i ws more, s.fault = none → s.refused = none → s.inputs = .command ws :: more → decode s.cfg ws = .ok (i, []) →
      i.opcode.foreground = false → s.mayIssue i = false → step s = .next { s with inputs := more })

/-- 60_exceptions.md R283, R285, R286: every interrupt step completes, and leaves the foreground's position and working values, the
round-robin index and the parameters as they were. -/
def Obligations.InterruptKeepsForeground : Prop :=
  ∀ (s : State) (p c : Idx), ∀ i ∈ [Instr.irqRxrdy p, .irqTxrdy p, .irqTxcomp p, .irqNone p, .dmaDone c],
    ∃ t, exec i s = .next t ∧ t.fg = s.fg ∧ t.rr = s.rr ∧ t.cfg = s.cfg ∧ t.inputs = s.inputs ∧ t.result = s.result

/-! ## CONFIGURE, the queries, the default callback -/

/-- 40_config.md R120, 41_dispatch.md R141: the micro-steps C0 to C5 of CONFIGURE, one by one. -/
def Obligations.ConfigureMicroSteps : Prop :=
  ∀ (s : State) (d : Idx) (x : Locals), x.d = d →
    let b := (s.desc d).bus
    let op := Instr.configure d
    (s.fg = .idle → s.descOk d = true → exec op s = .next { s with fg := .busy op .c1 (Locals.init d) }) ∧
    (s.fg = .idle → s.descOk d = false → exec op s = .next { s with refused := some .badDescField }) ∧
    (s.fg = .busy op .c1 x → exec op s = .next { s with
      fg := .busy op .c2 x
      descs := s.descs.modify d.toNat (fun e => if e.timeout = 0 then { e with timeout := s.cfg.defaultTimeout } else e) }) ∧
    (s.fg = .busy op .c2 x → exec op s = .next { s with
      fg := .busy op .c3 x
      ctl := s.ctl.modify (Config.busOf s.cfg (Config.pid s.cfg b)).toNat (fun y => { y with clk := true })
      hist := s.hist ++ [.cmd (.pmcEnable (Config.pid s.cfg b))] }) ∧
    (s.fg = .busy op .c3 x → exec op s = .next { s with
      fg := .busy op .c4 x
      hist := s.hist ++ [.cmd (.twiConfigure b (s.desc d).freq)] }) ∧
    (s.fg = .busy op .c4 x → exec op s = .next { s with
      fg := .busy op .c5 x
      hist := s.hist ++
        if (Config.bus s.cfg b).hasFifo = true ∧ (s.desc d).strategy = .fifo then
          [.cmd (.fifoConfig b (BitVec.ofNat 32 ((Config.bus s.cfg b).fifoDepth.toNat / 2))
            (BitVec.ofNat 32 ((Config.bus s.cfg b).fifoDepth.toNat / 2)))]
        else [] }) ∧
    (s.fg = .busy op .c5 x → exec op s = .next { s with
      fg := .idle, result := none, hist := s.hist ++ [.ret .configure none] })

/-- 40_config.md R120: CONFIGURE from its issue to its return, all it writes and all it emits. -/
def Obligations.ConfigureRun : Prop :=
  ∀ (s : State) (d : Idx), s.cfg.wf = true → s.fg = .idle → s.descOk d = true →
    let b := (s.desc d).bus
    let half := BitVec.ofNat 32 ((Config.bus s.cfg b).fifoDepth.toNat / 2)
    runOp (.configure d) 6 s = .next { s with
      result := none
      descs := s.descs.modify d.toNat (fun e => if e.timeout = 0 then { e with timeout := s.cfg.defaultTimeout } else e)
      ctl := s.ctl.modify b.toNat (fun y => { y with clk := true })
      hist := s.hist ++ [.cmd (.pmcEnable (Config.pid s.cfg b)), .cmd (.twiConfigure b (s.desc d).freq)] ++
        (if (Config.bus s.cfg b).hasFifo = true ∧ (s.desc d).strategy = .fifo then [.cmd (.fifoConfig b half half)] else []) ++
        [.ret .configure none] }

/-- 40_config.md R121: two CONFIGURE in a row emit the same commands, and the second leaves every descriptor as it is. -/
def Obligations.ConfigureIdempotent : Prop :=
  ∀ (s : State) (d : Idx), s.fg = .idle → s.descOk d = true →
    ∃ t u cs, runOp (.configure d) 6 s = .next t ∧ runOp (.configure d) 6 t = .next u ∧
      t.trace = s.trace ++ cs ∧ u.trace = t.trace ++ cs ∧ u.descs = t.descs

/-- 40_config.md R122: IS_BUSY returns the lock, 1 for true and 0 for false, writes no other state and emits nothing. -/
def Obligations.IsBusyReturnsLock : Prop :=
  ∀ (s : State) (d : Idx), s.fg = .idle →
    let r : Option Word := some (if (s.desc d).lock then 1 else 0)
    exec (.isBusy d) s = .next { s with result := r, hist := s.hist ++ [.ret .isBusy r] }

/-- 40_config.md R123, R124: W1 returns when the lock is free and holds the foreground there while it is not. That a held foreground's
micro-step is one that changes nothing is the model's choice (log 7). -/
def Obligations.WaitUntilIdle : Prop :=
  ∀ (s : State) (d : Idx),
    (∀ x, (s.fg = .idle ∨ s.fg = .busy (.waitUntilIdle d) .w1 x) → (s.desc d).lock = false →
      exec (.waitUntilIdle d) s = .next { s with
        fg := .idle, result := none, hist := s.hist ++ [.ret .waitUntilIdle none] }) ∧
    (s.fg = .idle → (s.desc d).lock = true →
      exec (.waitUntilIdle d) s = .next { s with fg := .busy (.waitUntilIdle d) .w1 (Locals.init d) }) ∧
    (∀ x, s.fg = .busy (.waitUntilIdle d) .w1 x → (s.desc d).lock = true → exec (.waitUntilIdle d) s = .next s)

/-- 40_config.md R125: DEFAULT_CALLBACK frees the lock of its descriptor; on a free lock it changes no descriptor. -/
def Obligations.DefaultCallbackFreesLock : Prop :=
  ∀ (s : State) (d : Idx), s.fg = .idle →
    exec (.defaultCallback d) s = .next { s with
      result := none
      descs := s.descs.modify d.toNat (fun e => { e with lock := false })
      hist := s.hist ++ [.ret .defaultCallback none] } ∧
    ((s.desc d).lock = false → s.descs.modify d.toNat (fun e => { e with lock := false }) = s.descs)

/-! ## SUBMIT: the mode selector -/

/-- 41_dispatch.md R141: the check of the descriptor's fields; SUBMIT starts when they are in range, and is refused when they are
not. -/
def Obligations.SubmitChecksDescriptor : Prop :=
  ∀ (s : State) (d : Idx) (rx tx : Option Buffer) (cb : Callback) (args : Word), s.fg = .idle →
    let op := Instr.submit d rx tx cb args
    let e := s.desc d
    let ok := e.bus.toNat < s.cfg.buses.length ∧ e.slave.toNat ≤ 127 ∧ e.isize.toNat ≤ 3 ∧
      e.iaddr.toNat < 2 ^ (8 * e.isize.toNat)
    (s.descOk d = true ↔ ok) ∧
    (ok → exec op s = .next { s with fg := .busy op .s1 (Locals.init d) }) ∧
    (¬ ok → exec op s = .next { s with refused := some .badDescField })

/-- 41_dispatch.md R142: S1 records the callback and its argument, emits nothing, and sets `HZ_CB_REPLACED` when a DMA channel of the
descriptor is active; a LOCK return right after it leaves them replaced. -/
def Obligations.SubmitRecordsCallback : Prop :=
  ∀ (s : State) (d : Idx) (rx tx : Option Buffer) (cb : Callback) (args : Word) (x : Locals), x.d = d →
    let op := Instr.submit d rx tx cb args
    s.fg = .busy op .s1 x →
    ∃ t, exec op s = .next t ∧
      t = { s with
        fg := .busy op .s2 x
        descs := s.descs.modify d.toNat (fun e => { e with callback := cb, cbArgs := args })
        hz := { s.hz with cbReplaced := t.hz.cbReplaced } } ∧
      (t.hz.cbReplaced = true ↔ s.hz.cbReplaced = true ∨ ∃ y ∈ s.chans, y.active = true ∧ y.desc = d) ∧
      ((s.desc d).lock = true →
        ∃ u, exec op t = .next u ∧ u.result = some 1 ∧ (u.desc d).callback = cb ∧ (u.desc d).cbArgs = args)

/-- 41_dispatch.md R143: the try-lock takes a free lock; on a held one SUBMIT returns LOCK at once, having emitted no command and
written nothing but the callback, its argument (and the flag of R142). -/
def Obligations.SubmitTryLock : Prop :=
  ∀ (s : State) (d : Idx) (rx tx : Option Buffer) (cb : Callback) (args : Word),
    let op := Instr.submit d rx tx cb args
    (∀ x, x.d = d → s.fg = .busy op .s2 x → (s.desc d).lock = false →
      exec op s = .next { s with
        fg := .busy op .s3 x, descs := s.descs.modify d.toNat (fun e => { e with lock := true }) }) ∧
    (s.fg = .idle → s.descOk d = true → (s.desc d).lock = true →
      runOp op 3 s = .next { s with
        descs := s.descs.modify d.toNat (fun e => { e with callback := cb, cbArgs := args })
        hz := { s.hz with cbReplaced := s.hz.cbReplaced || s.dmaActiveFor d }
        result := some 1
        hist := s.hist ++ [.ret .submit (some 1)] })

/-- 41_dispatch.md R147: a DMA descriptor given both buffers or neither returns DUPLEX, for any lengths, with the lock taken and freed
again and no command emitted. -/
def Obligations.SubmitDuplex : Prop :=
  ∀ (s : State) (d : Idx) (rx tx : Option Buffer) (cb : Callback) (args : Word),
    let op := Instr.submit d rx tx cb args
    s.fg = .idle → s.descOk d = true → (s.desc d).lock = false → (s.desc d).strategy = .dma → rx.isSome = tx.isSome →
    runOp op 5 s = .next { s with
      descs := s.descs.modify d.toNat (fun e => { e with callback := cb, cbArgs := args })
      hz := { s.hz with cbReplaced := s.hz.cbReplaced || s.dmaActiveFor d }
      result := some 4
      hist := s.hist ++ [.ret .submit (some 4)] }

/-- 41_dispatch.md R140 (S3), R148: with exactly one buffer S3 makes it the active one; with both or neither and a strategy other than
DMA the operation is refused. -/
def Obligations.SubmitActiveBuffer : Prop :=
  ∀ (s : State) (d : Idx) (cb : Callback) (args : Word) (x : Locals) (r w : Buffer), x.d = d →
    (s.fg = .busy (.submit d (some r) none cb args) .s3 x →
      exec (.submit d (some r) none cb args) s = .next { s with
        fg := .busy (.submit d (some r) none cb args) .s4 { x with buf := r.addr, len := r.len, dir := .read } }) ∧
    (s.fg = .busy (.submit d none (some w) cb args) .s3 x →
      exec (.submit d none (some w) cb args) s = .next { s with
        fg := .busy (.submit d none (some w) cb args) .s4 { x with buf := w.addr, len := w.len, dir := .write } }) ∧
    (∀ rx tx, rx.isSome = tx.isSome → (s.desc d).strategy ≠ .dma → s.fg = .busy (.submit d rx tx cb args) .s3 x →
      exec (.submit d rx tx cb args) s = .next { s with refused := some .duplexUnchecked })

/-- 41_dispatch.md R144: the buffer check at S4. -/
def Obligations.SubmitBufferCheck : Prop :=
  ∀ (s : State) (d : Idx) (rx tx : Option Buffer) (cb : Callback) (args : Word) (x : Locals),
    let op := Instr.submit d rx tx cb args
    let lo := x.buf.toNat
    let hi := x.buf.toNat + x.len.toNat
    let covers := ∃ b ∈ s.cfg.buses, (lo ≤ b.thr.toNat ∧ b.thr.toNat < hi) ∨ (lo ≤ b.rhr.toNat ∧ b.rhr.toNat < hi)
    s.fg = .busy op .s4 x →
    (x.len = 0 → exec op s = .next { s with refused := some .zeroLength }) ∧
    (x.len ≠ 0 → (2 ^ 32 < hi ∨ covers) → exec op s = .next { s with refused := some .bufferRange }) ∧
    (x.len ≠ 0 → hi ≤ 2 ^ 32 → ¬ covers → exec op s = .next { s with fg := .busy op .s5 x })

/-- 41_dispatch.md R145, R146, R149: the effective strategy at S5, by the configured strategy and the length; the refusal of FIFO on a bus
without one; and the engine of an effective strategy and a direction at S6, by its first micro-step. -/
def Obligations.SubmitStrategyAndEngine : Prop :=
  ∀ (s : State) (d : Idx) (rx tx : Option Buffer) (cb : Callback) (args : Word) (x : Locals), x.d = d →
    let op := Instr.submit d rx tx cb args
    let goes := fun e => exec op s = .next { s with fg := .busy op .s6 { x with eff := e } }
    (s.fg = .busy op .s5 x →
      ((s.desc d).strategy = .polling → goes .polling) ∧
      ((s.desc d).strategy = .async → x.len = 1 → goes .polling) ∧
      ((s.desc d).strategy = .async → 2 ≤ x.len.toNat → goes .async) ∧
      ((s.desc d).strategy = .dma → x.len.toNat < s.cfg.dmaThreshold → goes .polling) ∧
      ((s.desc d).strategy = .dma → s.cfg.dmaThreshold ≤ x.len.toNat → goes .dma) ∧
      ((s.desc d).strategy = .fifo → (Config.bus s.cfg (s.desc d).bus).hasFifo = true → goes .fifo) ∧
      ((s.desc d).strategy = .fifo → (Config.bus s.cfg (s.desc d).bus).hasFifo = false →
        exec op s = .next { s with refused := some .noFifo })) ∧
    (∀ l, s.fg = .busy op .s6 x →
      (x.eff, x.dir, l) ∈ [(Strategy.polling, Dir.write, Label.pw1), (.polling, .read, .pr1), (.async, .write, .a1),
        (.async, .read, .a1), (.dma, .write, .mw1), (.dma, .read, .mr1), (.fifo, .write, .f1), (.fifo, .read, .f1)] →
      exec op s = .next { s with fg := .busy op l x })

/-- 41_dispatch.md R150: S9 frees the lock before an error is returned, and writes nothing before a success is; the LOCK return of S2
leaves the lock held. -/
def Obligations.SubmitReturn : Prop :=
  ∀ (s : State) (d : Idx) (rx tx : Option Buffer) (cb : Callback) (args : Word) (x : Locals), x.d = d →
    let op := Instr.submit d rx tx cb args
    (s.fg = .busy op .s2 x → (s.desc d).lock = true → exec op s = .next { s with
      fg := .idle, result := some 1, hist := s.hist ++ [.ret .submit (some 1)] }) ∧
    (s.fg = .busy op .s9 x → x.st = .success → exec op s = .next { s with
      fg := .idle, result := some 0, hist := s.hist ++ [.ret .submit (some 0)] }) ∧
    (∀ code : Word, s.fg = .busy op .s9 x →
      (x.st, code) ∈ [(.lock, 1), (.ack, 2), (.timeout, 3), (.duplex, 4), (.noSlot, 5)] →
      exec op s = .next { s with
        fg := .idle, result := some code, hist := s.hist ++ [.ret .submit (some code)]
        descs := s.descs.modify d.toNat (fun e => { e with lock := false }) })

/-- 41_dispatch.md R151, 60_exceptions.md R270, 42_polling.md R160: a SUBMIT whose micro-steps run on without a stop returns exactly one
status, after a number of them that its length bounds, or the machine stops at a refusal or at the fault of an unanswered channel
allocation; every status other than SUCCESS and LOCK leaves the lock free. -/
def Obligations.SubmitTerminates : Prop :=
  ∀ (s : State) (d : Idx) (rx tx : Option Buffer) (cb : Callback) (args : Word),
    let op := Instr.submit d rx tx cb args
    let len := (rx.map (fun b => b.len.toNat)).getD 0 + (tx.map (fun b => b.len.toNat)).getD 0
    s.fg = .idle → s.fault = none → s.refused = none →
    ∃ n t es, 1 ≤ n ∧ n ≤ 4 * len + 30 ∧ runOp op n s = .next t ∧ t.hist = s.hist ++ es ∧
      ((∃ st : Status, t.fg = .idle ∧ t.fault = none ∧ t.refused = none ∧ t.result = some st.code ∧
          es.filter Event.isRet = [.ret .submit (some st.code)] ∧
          (st ≠ .success → st ≠ .lock → (t.desc d).lock = false)) ∨
       (t.refused ≠ none ∧ es.filter Event.isRet = []) ∨
       (∃ dir, t.fault = some (.dmaAlloc d dir) ∧ es.filter Event.isRet = []))

/-! ## The polling engine -/

/-- 42_polling.md R162, R163, R170: a polling write whose every answer is good emits exactly the rule's commands with the buffer's bytes
in order, returns SUCCESS, frees the lock and changes no byte the CPU sees. -/
def Obligations.PollWriteGood : Prop :=
  ∀ (s t : State) (d : Idx) (rx tx : Option Buffer) (cb : Callback) (args : Word) (x : Locals) (es : List Event), x.d = d →
    let op := Instr.submit d rx tx cb args
    let e := s.desc d
    s.cfg.wf = true → s.fg = .busy op .pw1 x → x.len ≠ 0 → s.callbackAdmitted e.callback = true →
    runOp op (4 * x.len.toNat + 5) s = .next t → t.hist = s.hist ++ es → (∀ c ∈ cmdsOf es, c.failed = false) →
    t.fg = .idle ∧ t.result = some 0 ∧ t.descs = s.descs.modify d.toNat (fun e => { e with lock := false }) ∧
    cmdsOf es =
      [.startWrite e.bus ⟨e.slave, e.iaddr, e.isize⟩ (s.cpuByte x.buf)] ++
      (if x.len = 1 then [.stop e.bus] else []) ++
      [.readNack e.bus false] ++
      (List.range (x.len.toNat - 1)).flatMap (fun k =>
        [.waitTxrdy e.bus e.timeout .ready, .readNack e.bus false,
         .writeByte e.bus (s.cpuByte (x.buf + BitVec.ofNat 32 (k + 1)))]) ++
      (if 1 < x.len.toNat then [.stop e.bus] else []) ++
      [.waitTxcomp e.bus e.timeout .ready] ++ callbackCmds e.callback d e.cbArgs ∧
    (∀ a, t.cpuByte a = s.cpuByte a)

/-- 42_polling.md R164, R165, R170: a polling read whose every answer is good emits exactly the rule's commands, stores each received
byte at its place in the buffer and nowhere else, returns SUCCESS and frees the lock. -/
def Obligations.PollReadGood : Prop :=
  ∀ (s t : State) (d : Idx) (rx tx : Option Buffer) (cb : Callback) (args : Word) (x : Locals) (es : List Event), x.d = d →
    let op := Instr.submit d rx tx cb args
    let e := s.desc d
    s.cfg.wf = true → s.memOk → s.fg = .busy op .pr1 x → x.len ≠ 0 → x.buf.toNat + x.len.toNat ≤ 2 ^ 32 →
    s.callbackAdmitted e.callback = true →
    runOp op (4 * x.len.toNat + 4) s = .next t → t.hist = s.hist ++ es → (∀ c ∈ cmdsOf es, c.failed = false) →
    t.fg = .idle ∧ t.result = some 0 ∧ t.descs = s.descs.modify d.toNat (fun e => { e with lock := false }) ∧
    ∃ v : Nat → Byte,
      cmdsOf es =
        [.startRead e.bus ⟨e.slave, e.iaddr, e.isize⟩] ++
        (List.range (x.len.toNat - 1)).flatMap (fun k =>
          [.waitRxrdy e.bus e.timeout .ready, .readByte e.bus (v k), .readNack e.bus false]) ++
        [.stop e.bus, .waitRxrdy e.bus e.timeout .ready, .readByte e.bus (v (x.len.toNat - 1)),
         .waitTxcomp e.bus e.timeout .ready] ++ callbackCmds e.callback d e.cbArgs ∧
      ∀ a : Word, t.cpuByte a =
        if x.buf.toNat ≤ a.toNat ∧ a.toNat < x.buf.toNat + x.len.toNat then v (a.toNat - x.buf.toNat) else s.cpuByte a

/-- 42_polling.md R167: a NACK at PW3, PW7 or PR5 ends the call with ACK: the next commands are none, no callback runs, and the lock is
freed. -/
def Obligations.PollNack : Prop :=
  ∀ (s : State) (d : Idx) (rx tx : Option Buffer) (cb : Callback) (args : Word) (x : Locals) (l : Label), x.d = d →
    let op := Instr.submit d rx tx cb args
    s.fg = .busy op l x → l ∈ [Label.pw3, .pw7, .pr5] → s.answerBit = true →
    runOp op 2 s = .next { s with
      fg := .idle, result := some 2
      descs := s.descs.modify d.toNat (fun e => { e with lock := false })
      answers := s.answers.tail, drawNo := s.drawNo + 1
      hist := s.hist ++ [.cmd (.readNack (s.desc d).bus true), .ret .submit (some 2)] }

/-- 42_polling.md R166, R164 (PR8): a byte-level timeout leaves the byte loop for the statements after it: PW6 for PW9, PR3 for PR6, PR7
for PR9 without a final byte. The final byte lands at the buffer's last address, and after an aborted loop at that address or at the
one the loop had reached; nothing else the CPU sees changes. -/
def Obligations.PollByteTimeout : Prop :=
  ∀ (s : State) (d : Idx) (rx tx : Option Buffer) (cb : Callback) (args : Word) (x : Locals), x.d = d →
    let op := Instr.submit d rx tx cb args
    let e := s.desc d
    (s.answerWait = .timeout →
      (s.fg = .busy op .pw6 x → exec op s = .next { s with
        fg := .busy op .pw9 x
        answers := s.answers.tail, drawNo := s.drawNo + 1
        hist := s.hist ++ [.cmd (.waitTxrdy e.bus e.timeout .timeout)] }) ∧
      (s.fg = .busy op .pr3 x → exec op s = .next { s with
        fg := .busy op .pr6 { x with aborted := true }
        answers := s.answers.tail, drawNo := s.drawNo + 1
        hist := s.hist ++ [.cmd (.waitRxrdy e.bus e.timeout .timeout)] }) ∧
      (s.fg = .busy op .pr7 x → exec op s = .next { s with
        fg := .busy op .pr9 x
        answers := s.answers.tail, drawNo := s.drawNo + 1
        hist := s.hist ++ [.cmd (.waitRxrdy e.bus e.timeout .timeout)] })) ∧
    (s.cfg.wf = true → s.memOk → s.fg = .busy op .pr8 x →
      ∃ t v a, exec op s = .next t ∧
        (x.aborted = false → a = x.buf + x.len - 1) ∧
        (x.aborted = true → a = x.buf + x.len - 1 ∨ a = x.buf + x.i) ∧
        t.trace = s.trace ++ [.readByte e.bus v] ∧
        (∀ z, t.cpuByte z = if z = a then v else s.cpuByte z) ∧
        t = { s with
          fg := .busy op .pr9 x
          mem := t.mem, cache := t.cache, answers := t.answers, drawNo := t.drawNo, hist := t.hist })

/-- 42_polling.md R168: the transfer-complete wait of both directions and of the FIFO adapter. A timeout reconfigures by C1 to C4 and
returns TIMEOUT with the lock freed and no callback; otherwise the callback runs and the lock is freed in one micro-step. A callback whose
code calls the block is refused (40_config.md R128, 60_exceptions.md R300): which callbacks do, and that the invoking step refuses, is the
model's choice (log 17). -/
def Obligations.TransferComplete : Prop :=
  ∀ (s : State) (d : Idx) (rx tx : Option Buffer) (cb : Callback) (args : Word) (x : Locals) (l l' : Label), x.d = d →
    let op := Instr.submit d rx tx cb args
    let e := s.desc d
    let half := BitVec.ofNat 32 ((Config.bus s.cfg e.bus).fifoDepth.toNat / 2)
    (l, l') ∈ [(Label.pw10, Label.pw11), (.pr9, .pr10), (.f3, .f4)] →
    (s.cfg.wf = true → s.descOk d = true → s.fg = .busy op l x → s.answerWait = .timeout →
      runOp op 6 s = .next { s with
        fg := .idle, result := some 3
        answers := s.answers.tail, drawNo := s.drawNo + 1
        descs := s.descs.modify d.toNat (fun e =>
          { e with timeout := if e.timeout = 0 then s.cfg.defaultTimeout else e.timeout, lock := false })
        ctl := s.ctl.modify e.bus.toNat (fun y => { y with clk := true })
        hist := s.hist ++ [.cmd (.waitTxcomp e.bus e.timeout .timeout), .cmd (.pmcEnable (Config.pid s.cfg e.bus)),
            .cmd (.twiConfigure e.bus e.freq)] ++
          (if (Config.bus s.cfg e.bus).hasFifo = true ∧ e.strategy = .fifo then [.cmd (.fifoConfig e.bus half half)] else []) ++
          [.ret .submit (some 3)] }) ∧
    (s.fg = .busy op l x → s.answerWait = .ready →
      exec op s = .next { s with
        fg := .busy op l' x
        answers := s.answers.tail, drawNo := s.drawNo + 1
        hist := s.hist ++ [.cmd (.waitTxcomp e.bus e.timeout .ready)] }) ∧
    (s.fg = .busy op l' x → s.callbackAdmitted e.callback = true →
      exec op s = .next { s with
        fg := .busy op .s9 { x with st := .success }
        descs := s.descs.modify d.toNat (fun e => { e with lock := false })
        hist := s.hist ++ (callbackCmds e.callback d e.cbArgs).map Event.cmd }) ∧
    (s.fg = .busy op l' x → s.callbackAdmitted e.callback = false →
      exec op s = .next { s with refused := some .callFromCallback })

/-! ## The asynchronous engine -/

/-- 43_async.md R192, R193: the allocation under FAIL_FAST takes the first free slot from RR on, binds it to the transfer, and flags a
duplicate binding; with no free slot nothing is written and the engine returns NO_SLOT. -/
def Obligations.AsyncAllocateFailFast : Prop :=
  ∀ (s : State) (d : Idx) (rx tx : Option Buffer) (cb : Callback) (args : Word) (x : Locals), x.d = d →
    let op := Instr.submit d rx tx cb args
    let p := Config.pid s.cfg (s.desc d).bus
    s.cfg.slotPolicy = .failFast → s.slots.length = s.cfg.nSlots → s.fg = .busy op .a1 x →
    (∀ j k y, j < s.cfg.nSlots → k = (s.rr + j) % s.cfg.nSlots → s.slots[k]? = some y → y.free = true →
      (∀ i z, i < j → s.slots[(s.rr + i) % s.cfg.nSlots]? = some z → z.free = false) →
      ∃ t, exec op s = .next t ∧
        t = { s with
          fg := .busy op .a2 { x with slot := some k }
          rr := (k + 1) % s.cfg.nSlots
          hz := { s.hz with dupBinding := t.hz.dupBinding }
          slots := s.slots.set k
            { desc := s.desc d, owner := some d, transferred := 0, pid := some p
              ptr := some (match x.dir with | .write => x.buf + 1 | .read => x.buf)
              size := (match x.dir with | .write => x.len - 1 | .read => x.len)
              bufLo := x.buf, bufHi := x.buf + x.len } } ∧
        (t.hz.dupBinding = true ↔
          s.hz.dupBinding = true ∨ ∃ i z, i ≠ k ∧ s.slots[i]? = some z ∧ z.pid = some p)) ∧
    ((∀ y ∈ s.slots, y.free = false) →
      exec op s = .next { s with fg := .busy op .s9 { x with st := .noSlot } })

/-- 43_async.md R191, R193: the allocation under OVERWRITE takes the slot RR names, free or not, and flags the overrun of a bound one. -/
def Obligations.AsyncAllocateOverwrite : Prop :=
  ∀ (s : State) (d : Idx) (rx tx : Option Buffer) (cb : Callback) (args : Word) (x : Locals) (y : Slot), x.d = d →
    let op := Instr.submit d rx tx cb args
    let p := Config.pid s.cfg (s.desc d).bus
    s.cfg.slotPolicy = .overwrite → s.slots[s.rr]? = some y → s.fg = .busy op .a1 x →
    ∃ t, exec op s = .next t ∧
      t = { s with
        fg := .busy op .a2 { x with slot := some s.rr }
        rr := (s.rr + 1) % s.cfg.nSlots
        hz := { s.hz with
          slotOverrun := s.hz.slotOverrun || !(y.pid == none && y.ptr == none), dupBinding := t.hz.dupBinding }
        slots := s.slots.set s.rr
          { desc := s.desc d, owner := some d, transferred := 0, pid := some p
            ptr := some (match x.dir with | .write => x.buf + 1 | .read => x.buf)
            size := (match x.dir with | .write => x.len - 1 | .read => x.len)
            bufLo := x.buf, bufHi := x.buf + x.len } } ∧
      (t.hz.dupBinding = true ↔
        s.hz.dupBinding = true ∨ ∃ i z, i ≠ s.rr ∧ s.slots[i]? = some z ∧ z.pid = some p)

/-- 43_async.md R190, R194, R195, R196: from the bound slot to the return: the handler and the line, then the start of the transfer and
its ready interrupt, in the order of the direction; SUCCESS, with the lock, the slots and RR as they were. -/
def Obligations.AsyncStart : Prop :=
  ∀ (s : State) (d : Idx) (rx tx : Option Buffer) (cb : Callback) (args : Word) (x : Locals), x.d = d →
    let op := Instr.submit d rx tx cb args
    let e := s.desc d
    let p := Config.pid s.cfg e.bus
    let a : Target := ⟨e.slave, e.iaddr, e.isize⟩
    s.cfg.wf = true → s.descOk d = true → s.fg = .busy op .a2 x →
    ∃ t, runOp op 6 s = .next t ∧
      t = { s with
        fg := .idle, result := some 0
        cache := t.cache, answers := t.answers, drawNo := t.drawNo, hist := t.hist
        ctl := s.ctl.modify e.bus.toNat (fun y => { y with
          vec := .shared, line := true
          inten := y.inten ||| (match x.dir with | .write => 2#3 | .read => 1#3) }) } ∧
      (∀ z, t.cpuByte z = s.cpuByte z) ∧
      t.trace = s.trace ++ [.irqSetHandler p, .irqLineEnable p] ++
        match x.dir with
        | .write => [.startWrite e.bus a (s.cpuByte x.buf), .intEnable e.bus 2#3]
        | .read => [.intEnable e.bus 1#3, .startRead e.bus a]

/-- 43_async.md R198, R202: IRQ_RXRDY of a matched slot. With the pointer inside the buffer the received byte is stored there, the slot
moves on by one byte, the last byte turns receive-ready off and transfer-complete on, the byte before it stops. With the pointer
outside, the fault is raised after the byte is read and before any memory write. That a `buf_hi` of 0 stands for the top of memory is the
model's reading (log 15). -/
def Obligations.IrqRxrdyMatched : Prop :=
  ∀ (s : State) (p : Idx) (k : Nat) (y : Slot) (a : Word), s.lowestBound p k y → y.ptr = some a →
    let b := y.desc.bus
    let v := s.answerByte
    let n := y.transferred + 1
    let s1 := ({ s with
      answers := s.answers.tail, drawNo := s.drawNo + 1, hist := s.hist ++ [.cmd (.readByte b v)] } : State).cpuWrite a v
    let lo := y.bufLo.toNat
    let hi := if y.bufHi = 0 ∧ y.bufLo ≠ 0 then 2 ^ 32 else y.bufHi.toNat
    (lo ≤ a.toNat → a.toNat < hi →
      exec (.irqRxrdy p) s = .next { s1 with
        slots := s.slots.set k { y with ptr := some (a + 1), transferred := n }
        ctl := if n = y.size then s.ctl.modify b.toNat (fun z => { z with inten := z.inten &&& ~~~1#3 ||| 4#3 }) else s.ctl
        hist := s1.hist ++ (if n = y.size then [.cmd (.intDisable b 1#3), .cmd (.intEnable b 4#3)] else []) ++
          (if n = y.size - 1 then [.cmd (.stop b)] else []) }) ∧
    ((a.toNat < lo ∨ hi ≤ a.toNat) →
      exec (.irqRxrdy p) s = .next { s with
        answers := s.answers.tail, drawNo := s.drawNo + 1
        hist := s.hist ++ [.cmd (.readByte b v)]
        fault := some (.rxOverrun k (some a)) })

/-- 43_async.md R199: IRQ_TXRDY of a matched slot. With every byte sent it turns transmit-ready off and transfer-complete on and stops;
otherwise the byte at the pointer is sent and the slot moves on by one byte. -/
def Obligations.IrqTxrdyMatched : Prop :=
  ∀ (s : State) (p : Idx) (k : Nat) (y : Slot), s.lowestBound p k y →
    let b := y.desc.bus
    (y.transferred = y.size → exec (.irqTxrdy p) s = .next { s with
      ctl := s.ctl.modify b.toNat (fun z => { z with inten := z.inten &&& ~~~2#3 ||| 4#3 })
      hist := s.hist ++ [.cmd (.intDisable b 2#3), .cmd (.intEnable b 4#3), .cmd (.stop b)] }) ∧
    (∀ a, y.transferred ≠ y.size → y.ptr = some a → exec (.irqTxrdy p) s = .next { s.cpuRead a with
      slots := s.slots.set k { y with ptr := some (a + 1), transferred := y.transferred + 1 }
      hist := (s.cpuRead a).hist ++ [.cmd (.writeByte b (s.cpuByte a))] })

/-- 43_async.md R200, R206, 40_config.md R127: IRQ_TXCOMP of a matched slot turns the line and the three enables off, invokes the slot's
callback with its owner, frees the slot, and frees the owner's lock exactly where the callback or the parameter does. A callback whose
code calls the block is refused (R128, 60_exceptions.md R300): which callbacks do, and that the invoking step refuses, is the model's
choice (log 17); so is the stop at a bound slot with no owner, which no rule produces (log 16). -/
def Obligations.IrqTxcompMatched : Prop :=
  ∀ (s : State) (p : Idx) (k : Nat) (y : Slot), s.lowestBound p k y →
    let b := y.desc.bus
    (y.owner = none → exec (.irqTxcomp p) s = .next { s with fault := some (.brokenSlot k) }) ∧
    (y.owner ≠ none → s.callbackAdmitted y.desc.callback = false →
      exec (.irqTxcomp p) s = .next { s with refused := some .callFromCallback }) ∧
    (∀ d, y.owner = some d → s.callbackAdmitted y.desc.callback = true → exec (.irqTxcomp p) s = .next { s with
      slots := s.slots.set k { y with ptr := none, pid := none }
      descs := if freesLock y.desc.callback = true ∨ s.cfg.lockRelease = .engineAfterCallback then
          s.descs.modify d.toNat (fun e => { e with lock := false }) else s.descs
      ctl := (s.ctl.modify (Config.busOf s.cfg p).toNat (fun z => { z with line := false })).modify b.toNat
        (fun z => { z with inten := 0#3 })
      hist := s.hist ++ [.cmd (.irqLineDisable p), .cmd (.intDisable b 7#3)] ++
        (callbackCmds y.desc.callback d y.desc.cbArgs).map Event.cmd })

/-- 43_async.md R201: IRQ_NONE of a matched slot changes nothing and emits nothing. -/
def Obligations.IrqNoneMatched : Prop :=
  ∀ (s : State) (p : Idx) (k : Nat) (y : Slot), s.lowestBound p k y → exec (.irqNone p) s = .next s

/-- 43_async.md R205: with no slot bound to the identifier every event does the same: receive-ready and transmit-ready are disabled and
the hazard is flagged; nothing else changes. -/
def Obligations.IrqUnmatched : Prop :=
  ∀ (s : State) (p : Idx), s.unbound p → ∀ i ∈ [Instr.irqRxrdy p, .irqTxrdy p, .irqTxcomp p, .irqNone p],
    exec i s = .next { s with
      hz := { s.hz with unmatchedIrq := true }
      ctl := s.ctl.modify (Config.busOf s.cfg p).toNat (fun z => { z with inten := z.inten &&& 4#3 })
      hist := s.hist ++ [.cmd (.intDisable (Config.busOf s.cfg p) 3#3)] }

/-- 43_async.md R203: one handler entry emits at most three commands and at most one CALLBACK event, accesses at most one buffer byte, and
never waits. -/
def Obligations.HandlerBounded : Prop :=
  ∀ (s : State) (p : Idx), ∀ i ∈ [Instr.irqRxrdy p, .irqTxrdy p, .irqTxcomp p, .irqNone p],
    ∃ t es, exec i s = .next t ∧ t.hist = s.hist ++ es ∧
      ((cmdsOf es).filter (fun c => !c.isCallback)).length ≤ 3 ∧ ((cmdsOf es).filter Cmd.isCallback).length ≤ 1 ∧
      (es.filter Event.isCpuAccess).length ≤ 1 ∧ ∀ c ∈ cmdsOf es, c.isWait = false

/-! ## The DMA adapter and engine -/

/-- 44_dma.md R231: the channel the allocation answers is an inactive one, written as the rule says in the same micro-step, or the fault
is raised; each inactive channel, and NONE, is the answer of some draw (how a draw is read is log 27's). That the five fields R231 does not
name keep their values is the model's choice (log 33). -/
def Obligations.DmaAllocate : Prop :=
  ∀ (s : State) (d : Idx) (rx tx : Option Buffer) (cb : Callback) (args : Word) (x : Locals) (l l' : Label), x.d = d →
    let op := Instr.submit d rx tx cb args
    (l, l') ∈ [(Label.mw1, Label.mw2), (.mr1, .mr2)] → s.fg = .busy op l x →
    let taken := fun (s : State) (c : Idx) => exec op s = .next { s with
      fg := .busy op l' { x with ch := some c }
      answers := s.answers.tail, drawNo := s.drawNo + 1
      chans := s.chans.modify c.toNat (fun y =>
        { y with active := true, desc := d, dir := x.dir, moved := 0, cbSet := false, started := false })
      hist := s.hist ++ [.cmd (.dmaAlloc x.dir (some c))] }
    let failed := fun (s : State) => exec op s = .next { s with
      answers := s.answers.tail, drawNo := s.drawNo + 1
      hist := s.hist ++ [.cmd (.dmaAlloc x.dir none)]
      fault := some (.dmaAlloc d x.dir) }
    ((∃ c, c.toNat < s.cfg.nDmaCh ∧ (s.chan c).active = false ∧ taken s c) ∨ failed s) ∧
    (∀ c, c.toNat < s.cfg.nDmaCh → (s.chan c).active = false → taken { s with answers := c.toNat :: s.answers } c) ∧
    failed { s with answers := s.cfg.nDmaCh :: s.answers }

/-- 44_dma.md R232, R236, R237: the DMA write from its channel to its return: the region, the configuration, the clean over exactly the
buffer, the callback, the start; SUCCESS with the lock still held. -/
def Obligations.DmaWriteSetup : Prop :=
  ∀ (s : State) (d : Idx) (rx tx : Option Buffer) (cb : Callback) (args : Word) (x : Locals) (c : Idx), x.d = d →
    let op := Instr.submit d rx tx cb args
    let e := s.desc d
    let thr := (Config.bus s.cfg e.bus).thr
    d.toNat < s.descs.length → x.ch = some c → s.fg = .busy op .mw2 x →
    runOp op 7 s = .next { s with
      fg := .idle, result := some 0
      descs := s.descs.modify d.toNat (fun e => { e with regionAddr := x.buf, regionLen := x.len })
      chans := s.chans.modify c.toNat (fun y =>
        { y with src := x.buf, srcIncr := true, dst := thr, dstIncr := false, len := x.len, cbSet := true, started := true })
      mem := (s.cleanRange x.buf x.len).mem, cache := (s.cleanRange x.buf x.len).cache
      hist := s.hist ++ [.cmd (.dmaConfig c x.buf true thr false x.len), .cmd (.cacheClean x.buf x.len),
        .cmd (.dmaSetCallback c), .cmd (.dmaStart c), .ret .submit (some 0)] }

/-- 44_dma.md R233, R234: the DMA read from its channel on. Without a NACK it is set up as the write with source and destination swapped,
and started; with one the channel is freed, the region cleared, nothing started, and ACK returned with the lock freed. -/
def Obligations.DmaReadSetup : Prop :=
  ∀ (s : State) (d : Idx) (rx tx : Option Buffer) (cb : Callback) (args : Word) (x : Locals) (c : Idx), x.d = d →
    let op := Instr.submit d rx tx cb args
    let e := s.desc d
    let rhr := (Config.bus s.cfg e.bus).rhr
    let s1 := { s with
      answers := s.answers.tail, drawNo := s.drawNo + 1
      mem := (s.cleanRange x.buf x.len).mem, cache := (s.cleanRange x.buf x.len).cache }
    let cmds := [Event.cmd (.dmaConfig c rhr false x.buf true x.len), .cmd (.cacheClean x.buf x.len),
      .cmd (.dmaSetCallback c)]
    d.toNat < s.descs.length → x.ch = some c → s.fg = .busy op .mr2 x →
    (s.answerBit = false → runOp op 8 s = .next { s1 with
      fg := .idle, result := some 0
      descs := s.descs.modify d.toNat (fun e => { e with regionAddr := x.buf, regionLen := x.len })
      chans := s.chans.modify c.toNat (fun y =>
        { y with src := rhr, srcIncr := false, dst := x.buf, dstIncr := true, len := x.len, cbSet := true, started := true })
      hist := s.hist ++ cmds ++ [.cmd (.readNack e.bus false), .cmd (.dmaStart c), .ret .submit (some 0)] }) ∧
    (s.answerBit = true → runOp op 6 s = .next { s1 with
      fg := .idle, result := some 2
      descs := s.descs.modify d.toNat (fun e => { e with regionAddr := 0, regionLen := 0, lock := false })
      chans := s.chans.modify c.toNat (fun y =>
        { y with active := false, src := rhr, srcIncr := false, dst := x.buf, dstIncr := true, len := x.len, cbSet := true })
      hist := s.hist ++ cmds ++ [.cmd (.readNack e.bus true), .cmd (.dmaFree c), .ret .submit (some 2)] })

/-- 44_dma.md R238, 20_memory.md R72: the DMA engine's byte step of a running channel, and nothing but it; a channel with nothing to move
takes none. A transmit-holding register is one bus's alone (two buses with one: log 20). -/
def Obligations.DmaByteMoves : Prop :=
  ∀ (s : State) (c : Idx) (more : List Input), s.fault = none → s.refused = none → s.inputs = .dmaByte c :: more →
    let y := s.chan c
    let src := y.src + if y.srcIncr then y.moved else 0
    let dst := y.dst + if y.dstIncr then y.moved else 0
    let fromBus := ∃ b ∈ s.cfg.buses, b.rhr = src
    let running := y.active = true ∧ y.started = true ∧ y.moved.toNat < y.len.toNat
    (¬ running → step s = .next { s with inputs := more }) ∧
    (running → ∃ t v,
      step s = .next t ∧
      (¬ fromBus → v = Memory.read s.mem src.toNat ∧ t.answers = s.answers ∧ t.drawNo = s.drawNo) ∧
      (fromBus → v = s.answerByte ∧ t.answers = s.answers.tail ∧ t.drawNo = s.drawNo + 1) ∧
      t = { s with
        inputs := more, answers := t.answers, drawNo := t.drawNo, hist := t.hist, mem := t.mem
        chans := s.chans.modify c.toNat (fun y => { y with moved := y.moved + 1 }) } ∧
      ((∀ b ∈ s.cfg.buses, b.thr ≠ dst) → t.mem = Memory.write s.mem dst.toNat v ∧
        t.hist = s.hist ++ [.dmaRead src v, .dmaWrite dst v]) ∧
      (∀ b, s.cfg.buses.length ≤ 256 → (∀ i z, s.cfg.buses[i]? = some z → (z.thr = dst ↔ i = b)) → b < s.cfg.buses.length →
        t.mem = s.mem ∧ t.hist = s.hist ++ [.dmaRead src v, .dmaTx (BitVec.ofNat 8 b) v]))

/-- 44_dma.md R240: DMA_DONE. A read invalidates the region before the callback; the callback is the descriptor's, live; the channel is
freed, the region cleared, and the lock freed exactly where the callback or the parameter does. A callback whose code calls the block
is refused (40_config.md R128, 60_exceptions.md R300): which callbacks do, and that the invoking step refuses, is the model's choice
(log 17). -/
def Obligations.DmaDoneCompletes : Prop :=
  ∀ (s : State) (c : Idx),
    let y := s.chan c
    let d := y.desc
    let e := s.desc d
    (s.callbackAdmitted e.callback = false →
      exec (.dmaDone c) s = .next { s with refused := some .callFromCallback }) ∧
    (s.callbackAdmitted e.callback = true → exec (.dmaDone c) s = .next { s with
      cache := if y.dir = .read then (s.invalidateRange e.regionAddr e.regionLen).cache else s.cache
      descs := s.descs.modify d.toNat (fun z => { z with
        regionAddr := 0, regionLen := 0
        lock := if freesLock e.callback = true ∨ s.cfg.lockRelease = .engineAfterCallback then false else z.lock })
      chans := s.chans.modify c.toNat (fun z => { z with active := false })
      hist := s.hist ++ (if y.dir = .read then [.cmd (.cacheInvalidate e.regionAddr e.regionLen)] else []) ++
        (callbackCmds e.callback d e.cbArgs).map Event.cmd ++ [.cmd (.dmaFree c)] })

/-- 20_memory.md R74, R71, 44_dma.md R240, R242: the completion of a DMA read leaves memory as it was, and the CPU then sees in every byte
of the region the byte memory held before it, whatever the cache held. At the top of memory this rests on the exact line test (log 31). -/
def Obligations.DmaDoneCoherent : Prop :=
  ∀ (s : State) (c : Idx),
    let y := s.chan c
    let e := s.desc y.desc
    s.cfg.wf = true → s.callbackAdmitted e.callback = true → y.dir = .read →
    ∃ t, exec (.dmaDone c) s = .next t ∧ t.mem = s.mem ∧
      ∀ a : Word, e.regionAddr.toNat ≤ a.toNat → a.toNat < e.regionAddr.toNat + e.regionLen.toNat →
        t.cpuByte a = Memory.read s.mem a.toNat

/-! ## The FIFO adapter -/


/-- 45_fifo.md R261: FIFO_WRITE reads the buffer's bytes in order, through the cache, and draws its outcome. -/
def Obligations.FifoWriteStreams : Prop :=
  ∀ (s : State) (d : Idx) (rx tx : Option Buffer) (cb : Callback) (args : Word) (x : Locals), x.d = d →
    let op := Instr.submit d rx tx cb args
    let e := s.desc d
    s.cfg.wf = true → s.fg = .busy op .f1 x → x.dir = .write →
    ∃ t ok es, exec op s = .next t ∧ t.fg = .busy op .f2 { x with ok := ok } ∧ t.hist = s.hist ++ es ∧
      cmdsOf es = [.fifoWrite e.bus ⟨e.slave, e.iaddr, e.isize⟩ x.buf x.len e.timeout ok] ∧
      es.filter Event.isCpuAccess = (List.range x.len.toNat).map (fun k =>
        .cpuRead (x.buf + BitVec.ofNat 32 k) (s.cpuByte (x.buf + BitVec.ofNat 32 k))) ∧
      (∀ a, t.cpuByte a = s.cpuByte a) ∧ t.mem = s.mem ∧
      t.descs = s.descs ∧ t.slots = s.slots ∧ t.rr = s.rr ∧ t.chans = s.chans ∧ t.ctl = s.ctl ∧ t.hz = s.hz ∧
      t.fault = s.fault ∧ t.refused = s.refused

/-- 45_fifo.md R261: FIFO_READ draws its outcome; on success it draws the received bytes and then stores them in order, on failure each byte
of the buffer is kept or replaced; no byte outside the buffer changes. That the command stands before the draws and the stores, and that a
failed read's stores go by rising address, is the model's choice (log 32). -/
def Obligations.FifoReadStreams : Prop :=
  ∀ (s : State) (d : Idx) (rx tx : Option Buffer) (cb : Callback) (args : Word) (x : Locals), x.d = d →
    let op := Instr.submit d rx tx cb args
    let e := s.desc d
    s.cfg.wf = true → s.memOk → s.fg = .busy op .f1 x → x.dir = .read → x.buf.toNat + x.len.toNat ≤ 2 ^ 32 →
    ∃ t ok es, exec op s = .next t ∧ t.fg = .busy op .f2 { x with ok := ok } ∧ t.hist = s.hist ++ es ∧
      cmdsOf es = [.fifoRead e.bus ⟨e.slave, e.iaddr, e.isize⟩ x.buf x.len e.timeout ok] ∧
      (∀ a : Word, ¬ (x.buf.toNat ≤ a.toNat ∧ a.toNat < x.buf.toNat + x.len.toNat) → t.cpuByte a = s.cpuByte a) ∧
      (ok = true → ∃ (v : Nat → Byte) (fs : List Event),
        es = [.cmd (.fifoRead e.bus ⟨e.slave, e.iaddr, e.isize⟩ x.buf x.len e.timeout true)] ++
          (List.range x.len.toNat).map (fun k => .choice (v k).toNat) ++ fs ∧
        fs.filter Event.isCpuAccess = (List.range x.len.toNat).map (fun k => .cpuWrite (x.buf + BitVec.ofNat 32 k) (v k)) ∧
        ∀ k, k < x.len.toNat → t.cpuByte (x.buf + BitVec.ofNat 32 k) = v k) ∧
      (ok = false → ∃ v : Nat → Option Byte,
        es.filter Event.isCpuAccess = (List.range x.len.toNat).filterMap (fun k =>
          (v k).map (fun z => .cpuWrite (x.buf + BitVec.ofNat 32 k) z)) ∧
        ∀ k, k < x.len.toNat →
          t.cpuByte (x.buf + BitVec.ofNat 32 k) = (v k).getD (s.cpuByte (x.buf + BitVec.ofNat 32 k))) ∧
      t.descs = s.descs ∧ t.slots = s.slots ∧ t.rr = s.rr ∧ t.chans = s.chans ∧ t.ctl = s.ctl ∧ t.hz = s.hz ∧
      t.fault = s.fault ∧ t.refused = s.refused

/-- 45_fifo.md R263: a failed streaming command returns a drawn one of ACK and TIMEOUT at once, with no command and no callback, and the lock
freed; each of the two is some draw's answer. A command that succeeded goes on to the transfer-complete wait. -/
def Obligations.FifoFailure : Prop :=
  ∀ (s : State) (d : Idx) (rx tx : Option Buffer) (cb : Callback) (args : Word) (x : Locals), x.d = d →
    let op := Instr.submit d rx tx cb args
    let returns := fun (s : State) (code : Word) => ∃ v, runOp op 2 s = .next { s with
      fg := .idle, result := some code
      descs := s.descs.modify d.toNat (fun e => { e with lock := false })
      answers := s.answers.tail, drawNo := s.drawNo + 1
      hist := s.hist ++ [.choice v, .ret .submit (some code)] }
    s.fg = .busy op .f2 x →
    (x.ok = true → exec op s = .next { s with fg := .busy op .f3 x }) ∧
    (x.ok = false →
      (returns s 2 ∨ returns s 3) ∧ (∃ a, returns { s with answers := a :: s.answers } 2) ∧
      (∃ a, returns { s with answers := a :: s.answers } 3))

/-- 44_dma.md R235, 45_fifo.md R264: no micro-step of the DMA adapter emits a start, a stop, a wait or an interrupt enable, or touches the
slot table, RR or the interrupt shadow state; no micro-step of the FIFO adapter emits a command of the interrupt, DMA or cache
interfaces, or touches the slot table, RR, the channels or a region. -/
def Obligations.AdapterFrames : Prop :=
  ∀ (s t : State) (d : Idx) (rx tx : Option Buffer) (cb : Callback) (args : Word) (x : Locals) (l : Label),
    let op := Instr.submit d rx tx cb args
    s.fg = .busy op l x → exec op s = .next t →
    (l ∈ [Label.mw1, .mw2, .mw3, .mw4, .mw5, .mw6, .mw7, .mr1, .mr2, .mr3, .mr4, .mr5, .mr6, .mr7, .mr8] →
      t.slots = s.slots ∧ t.rr = s.rr ∧ t.ctl = s.ctl ∧
      ∃ es, t.hist = s.hist ++ es ∧ ∀ c ∈ cmdsOf es, c.isBus = false) ∧
    (l ∈ [Label.f1, .f2, .f3, .f4] →
      t.slots = s.slots ∧ t.rr = s.rr ∧ t.chans = s.chans ∧
      t.descs.map (fun e => (e.regionAddr, e.regionLen)) = s.descs.map (fun e => (e.regionAddr, e.regionLen)) ∧
      ∃ es, t.hist = s.hist ++ es ∧ ∀ c ∈ cmdsOf es, c.isAsyncOrDma = false)

/-! ## Memory and cache -/


/-- 20_memory.md R66, R67: the CPU's accesses of a byte. A read of a present line gives its byte; of an absent one memory's, and the line
stays absent or is filled, by a drawn bit. A write lands in a present line, which becomes dirty; with an absent one in memory, or in the
line filled from memory, by a drawn bit; and the CPU then sees it at that address and no other change, and every other line stays as it was.
That bit 1 is the fill is the model's choice (log 2), and so is the input that stands for code outside the block (log 29). -/
def Obligations.CpuByteAccess : Prop :=
  ∀ (s : State) (a : Word) (v : Byte) (more : List Input), s.fault = none → s.refused = none → s.cfg.wf = true → s.memOk →
    let la := a.toNat - a.toNat % s.cfg.cacheLine
    let m := Memory.read s.mem a.toNat
    (s.inputs = .hostRead a :: more →
      (s.cfg.dcacheEnabled = false →
        step s = .next { s with inputs := more, hist := s.hist ++ [.cpuRead a m] }) ∧
      (∀ l, s.cfg.dcacheEnabled = true → assocGet s.cache la = some l →
        ∃ z, l.data[a.toNat - la]? = some z ∧ step s = .next { s with inputs := more, hist := s.hist ++ [.cpuRead a z] }) ∧
      (s.cfg.dcacheEnabled = true → assocGet s.cache la = none →
        step s = .next { s with
          inputs := more, answers := s.answers.tail, drawNo := s.drawNo + 1
          cache := if s.answerBit then
              assocPut s.cache la ⟨.clean, (List.range s.cfg.cacheLine).map (fun k => Memory.read s.mem (la + k))⟩ else s.cache
          hist := s.hist ++ [.choice (s.answer % 2), .cpuRead a m] })) ∧
    (s.inputs = .hostWrite a v :: more →
      ∃ t, step s = .next t ∧ (∀ z, t.cpuByte z = if z = a then v else s.cpuByte z) ∧
        (∀ lb, lb ≠ la → assocGet t.cache lb = assocGet s.cache lb) ∧
        (s.line? a.toNat = none → (s.cfg.dcacheEnabled = true → s.answerBit = false) →
          t.cache = s.cache ∧ t.mem = Memory.write s.mem a.toNat v) ∧
        ((s.line? a.toNat ≠ none ∨ s.cfg.dcacheEnabled = true ∧ s.answerBit = true) →
          t.mem = s.mem ∧ ∃ l, t.line? a.toNat = some l ∧ l.state = .dirty) ∧
        t = { s with
          inputs := more, cache := t.cache, mem := t.mem, answers := t.answers, drawNo := t.drawNo, hist := t.hist } ∧
        t.trace = s.trace)

/-- 20_memory.md R68, R69: a spontaneous fill of an absent line changes no byte the CPU sees and no byte of memory; an eviction writes a
dirty line back, leaves it absent, and changes no byte the CPU sees outside the line, nor inside one that was dirty. Each leaves every other
line as it was, its state and its bytes. -/
def Obligations.FillAndEvict : Prop :=
  ∀ (s : State) (a : Word) (more : List Input), s.fault = none → s.refused = none → s.cfg.wf = true → s.memOk →
    let la := a.toNat - a.toNat % s.cfg.cacheLine
    (s.inputs = .fill a :: more → ∃ t, step s = .next t ∧
      t = { s with inputs := more, cache := t.cache } ∧ (∀ z, t.cpuByte z = s.cpuByte z) ∧
      (∀ lb, lb ≠ la → assocGet t.cache lb = assocGet s.cache lb) ∧
      (s.cfg.dcacheEnabled = true → s.line? a.toNat = none →
        t.line? a.toNat = some ⟨.clean, (List.range s.cfg.cacheLine).map (fun k => Memory.read s.mem (la + k))⟩) ∧
      (s.cfg.dcacheEnabled = false ∨ s.line? a.toNat ≠ none → t.cache = s.cache)) ∧
    (s.inputs = .evict a :: more → ∃ t, step s = .next t ∧
      t = { s with inputs := more, cache := t.cache, mem := t.mem } ∧ t.line? a.toNat = none ∧
      (∀ lb, lb ≠ la → assocGet t.cache lb = assocGet s.cache lb) ∧
      (∀ z : Word, z.toNat < la ∨ la + s.cfg.cacheLine ≤ z.toNat ∨ (∃ l, s.line? a.toNat = some l ∧ l.state = .dirty) →
        t.cpuByte z = s.cpuByte z) ∧
      (∀ l k, s.line? a.toNat = some l → l.state = .dirty → k < s.cfg.cacheLine →
        l.data[k]? = some (Memory.read t.mem (la + k))) ∧
      (∀ z, s.line? a.toNat = none ∨ (∃ l, s.line? a.toNat = some l ∧ l.state = .clean) ∨
          z < la ∨ la + s.cfg.cacheLine ≤ z → Memory.read t.mem z = Memory.read s.mem z))

/-- 20_memory.md R70, R71: the clean writes the dirty lines that meet the range back and keeps every line, clean; the invalidate removes the
lines that meet the range and writes nothing; over no byte, or where no cache exists, neither changes anything. That the sums of the line
test are exact is the model's choice (log 31). -/
def Obligations.CleanAndInvalidate : Prop :=
  ∀ (s : State) (a n : Word), s.cfg.wf = true → s.memOk →
    let meets := fun la => la < a.toNat + n.toNat ∧ a.toNat < la + s.cfg.cacheLine
    (s.cfg.dcacheEnabled = false ∨ n = 0 → s.perform (.cacheClean a n) = s ∧ s.perform (.cacheInvalidate a n) = s) ∧
    (s.cfg.dcacheEnabled = true → n ≠ 0 →
    (∀ la, (meets la → assocGet (s.perform (.cacheClean a n)).cache la =
          (assocGet s.cache la).map (fun l => { l with state := .clean })) ∧
      (¬ meets la → assocGet (s.perform (.cacheClean a n)).cache la = assocGet s.cache la)) ∧
    (∀ z : Word, let la := z.toNat - z.toNat % s.cfg.cacheLine
      Memory.read (s.perform (.cacheClean a n)).mem z.toNat =
        match assocGet s.cache la with
        | some ⟨.dirty, data⟩ =>
          if la < a.toNat + n.toNat ∧ a.toNat < la + s.cfg.cacheLine then data.getD (z.toNat - la) 0
          else Memory.read s.mem z.toNat
        | _ => Memory.read s.mem z.toNat) ∧
    (∀ la, (meets la → assocGet (s.perform (.cacheInvalidate a n)).cache la = none) ∧
      (¬ meets la → assocGet (s.perform (.cacheInvalidate a n)).cache la = assocGet s.cache la)) ∧
    (s.perform (.cacheInvalidate a n)).mem = s.mem)

/-- 20_memory.md R73, R70, R72, 44_dma.md R237: after the clean of a DMA set-up every byte the CPU sees in the region is the one memory
holds (but in a clean line that was stale before), no dirty line meets the region, and what the CPU sees has not changed anywhere. From
then on every step of any agent whose CPU writes are clear of the region's lines and whose DMA writes are outside the region keeps memory's
bytes there and the absence of a dirty line, and every byte the DMA engine reads in the region, but at a receive-holding register, is
memory's. The sums of the line test are exact by the model's choice (log 31). -/
def Obligations.DmaWriteCoherent : Prop :=
  ∀ (s t : State), s.cfg.wf = true → s.memOk →
    let meets := fun (s : State) (a n : Word) la => la < a.toNat + n.toNat ∧ a.toNat < la + s.cfg.cacheLine
    let clean := fun (s : State) (a n : Word) => ∀ la l, meets s a n la → assocGet s.cache la = some l → l.state = .clean
    (∀ (d : Idx) (rx tx : Option Buffer) (cb : Callback) (args : Word) (x : Locals) (l : Label), x.d = d →
      l ∈ [Label.mw4, .mr4] → s.fg = .busy (.submit d rx tx cb args) l x →
      let a := (s.desc d).regionAddr
      let n := (s.desc d).regionLen
      ∃ t, exec (.submit d rx tx cb args) s = .next t ∧ t.trace = s.trace ++ [.cacheClean a n] ∧
        (∀ z : Word, t.cpuByte z = s.cpuByte z) ∧ (n ≠ 0 → clean t a n) ∧
        (∀ z : Word, a.toNat ≤ z.toNat → z.toNat < a.toNat + n.toNat →
          (∀ l, s.line? z.toNat = some l → l.state = .clean → s.cpuByte z = Memory.read s.mem z.toNat) →
          Memory.read t.mem z.toNat = s.cpuByte z)) ∧
    (∀ (a n : Word) (es : List Event), clean s a n → step s = .next t → t.hist = s.hist ++ es →
      (∀ z v, .cpuWrite z v ∈ es → ¬ meets s a n (z.toNat - z.toNat % s.cfg.cacheLine)) →
      (∀ z v, .dmaWrite z v ∈ es → ¬ (a.toNat ≤ z.toNat ∧ z.toNat < a.toNat + n.toNat)) →
      clean t a n ∧ (∀ k, a.toNat ≤ k → k < a.toNat + n.toNat → Memory.read t.mem k = Memory.read s.mem k) ∧
      ∀ z v, .dmaRead z v ∈ es → a.toNat ≤ z.toNat → z.toNat < a.toNat + n.toNat → (∀ b ∈ s.cfg.buses, b.rhr ≠ z) →
        v = Memory.read s.mem z.toNat)

/-! ## Frames -/

/-- SUBMIT's memory frame (42_polling.md R170, 45_fifo.md R261, 44_dma.md R237): a micro-step changes no byte the CPU sees but the one PR4
stores at `buf + i`, the one PR8 stores at the last address (or `buf + i` after an aborted loop), and those FIFO_READ stores in the buffer.
`MEM` itself, which the DMA engine reads, changes at those addresses only, and by the clean of M4 in the lines that meet the region; at
every other micro-step it is as it was. -/
def Obligations.SubmitMemoryFrame : Prop :=
  ∀ (s t : State) (d : Idx) (rx tx : Option Buffer) (cb : Callback) (args : Word) (x : Locals) (l : Label) (a : Word),
    let op := Instr.submit d rx tx cb args
    s.cfg.wf = true → s.memOk → s.fg = .busy op l x → exec op s = .next t →
    (l = .pr4 → a ≠ x.buf + x.i) →
    (l = .pr8 → a ≠ x.buf + x.len - 1 ∧ (x.aborted = true → a ≠ x.buf + x.i)) →
    (l = .f1 → x.dir = .read → ∀ k, k < x.len.toNat → a ≠ x.buf + BitVec.ofNat 32 k) →
    let la := a.toNat - a.toNat % s.cfg.cacheLine
    let e := s.desc x.d
    t.cpuByte a = s.cpuByte a ∧
    (l ∉ [Label.mw4, .mr4] ∨ ¬ (la < e.regionAddr.toNat + e.regionLen.toNat ∧ e.regionAddr.toNat < la + s.cfg.cacheLine) →
      Memory.read t.mem a.toNat = Memory.read s.mem a.toNat) ∧
    (l ∉ [Label.pr4, .pr8, .mw4, .mr4] → (l = .f1 → x.dir = .write) → t.mem = s.mem)

/-- SUBMIT's frame over the tables: a micro-step writes no slot and not RR outside A1, no channel outside the DMA adapter, no interrupt
state outside A2 to A5 and C2, no descriptor but its own, and of its own only the fields its rules write. -/
def Obligations.SubmitTableFrame : Prop :=
  ∀ (s t : State) (d : Idx) (rx tx : Option Buffer) (cb : Callback) (args : Word) (x : Locals) (l : Label), x.d = d →
    let op := Instr.submit d rx tx cb args
    s.fg = .busy op l x → exec op s = .next t →
    (l ≠ .a1 → t.slots = s.slots ∧ t.rr = s.rr) ∧
    (l ∉ [Label.mw1, .mw3, .mw5, .mw6, .mr1, .mr3, .mr5, .mr6, .mr7] → t.chans = s.chans) ∧
    (l ∉ [Label.a2, .a3, .a5w, .a4r, .c2] → t.ctl = s.ctl) ∧
    (l ≠ .s1 → l ≠ .a1 → t.hz = s.hz) ∧
    t.cfg = s.cfg ∧ t.inputs = s.inputs ∧
    (∀ d', d' ≠ d → t.desc d' = s.desc d') ∧
    (t.desc d).bus = (s.desc d).bus ∧ (t.desc d).freq = (s.desc d).freq ∧ (t.desc d).strategy = (s.desc d).strategy ∧
    (t.desc d).slave = (s.desc d).slave ∧ (t.desc d).iaddr = (s.desc d).iaddr ∧ (t.desc d).isize = (s.desc d).isize ∧
    (l ≠ .c1 → (t.desc d).timeout = (s.desc d).timeout) ∧
    (l ≠ .s1 → (t.desc d).callback = (s.desc d).callback ∧ (t.desc d).cbArgs = (s.desc d).cbArgs) ∧
    (l ∉ [Label.mw2, .mr2, .mr6] →
      (t.desc d).regionAddr = (s.desc d).regionAddr ∧ (t.desc d).regionLen = (s.desc d).regionLen) ∧
    (l ∉ [Label.s2, .s9, .pw11, .pr10, .f4] → (t.desc d).lock = (s.desc d).lock)

/-! ## Rules of the whole machine -/


/-- 10_state.md R25: no step sets a lock but the try-lock of SUBMIT, and none frees one but a synchronous completion, the error path, the
default callback, and the two interrupt completions. -/
def Obligations.LockDiscipline : Prop :=
  ∀ (s t : State) (d : Idx), s.fgOk → step s = .next t →
    ((s.desc d).lock = false → (t.desc d).lock = true →
      ∃ rx tx cb args x, s.fg = .busy (.submit d rx tx cb args) .s2 x) ∧
    ((s.desc d).lock = true → (t.desc d).lock = false →
      (∃ rx tx cb args l x, s.fg = .busy (.submit d rx tx cb args) l x ∧
        (l ∈ [Label.pw11, .pr10, .f4] ∨ l = .s9 ∧ x.st ≠ .success)) ∨
      (∃ ws more i rest, s.inputs = .command ws :: more ∧ decode s.cfg ws = .ok (i, rest) ∧
        (i = .defaultCallback d ∨ (∃ p, i = .irqTxcomp p) ∨ ∃ c, i = .dmaDone c)))

/-- 10_state.md R29: RR starts at 0, stays below `N_SLOTS`, and no step writes it but A1 of a SUBMIT. -/
def Obligations.RoundRobinIndex : Prop :=
  (∀ cfg hs m, (State.launch cfg hs m).rr = 0) ∧
  ∀ s t : State, step s = .next t →
    (s.rr < s.cfg.nSlots → t.rr < t.cfg.nSlots) ∧
    (t.rr ≠ s.rr → ∃ d rx tx cb args x, s.fg = .busy (.submit d rx tx cb args) .a1 x)

/-- 10_state.md R33, R36: the hazard flags and the history are empty at launch; no step clears a flag, and a step only appends to the
history. The parameters never change: that they stand in the state is the model's choice (log 1). -/
def Obligations.HazardsAndHistory : Prop :=
  (∀ cfg hs m, (State.launch cfg hs m).hz = ⟨false, false, false, false⟩ ∧ (State.launch cfg hs m).hist = []) ∧
  ∀ s t : State, step s = .next t →
    (s.hz.slotOverrun = true → t.hz.slotOverrun = true) ∧ (s.hz.dupBinding = true → t.hz.dupBinding = true) ∧
    (s.hz.cbReplaced = true → t.hz.cbReplaced = true) ∧ (s.hz.unmatchedIrq = true → t.hz.unmatchedIrq = true) ∧
    t.cfg = s.cfg ∧ ∃ es, t.hist = s.hist ++ es

/-- 70_reset_and_hazards.md R350: from a quiescent state no step of the DMA engine, no completion and no event of an identifier has an effect
but the defensive disable of R205. That the machine with no input stays as it is, is the model's choice (log 3). -/
def Obligations.QuiescentRests : Prop :=
  ∀ (s : State) (p c : Idx), s.quiescent = true →
    s.unbound p ∧ s.mayIssue (.dmaDone c) = false ∧ dmaByteStep c s = s ∧
    (s.fault = none → s.refused = none → s.inputs = [] → step s = .next s)

/-- 70_reset_and_hazards.md R320: the launch state. -/
def Obligations.LaunchState : Prop :=
  ∀ (cfg : Config) (hs : List HostDesc) (m : Memory),
    let s := State.launch cfg hs m
    s.fg = .idle ∧ s.rr = 0 ∧ s.hz = ⟨false, false, false, false⟩ ∧ s.fault = none ∧ s.refused = none ∧ s.hist = [] ∧
    s.mem = m ∧ s.cache = [] ∧ s.descs.length = hs.length ∧ s.slots.length = cfg.nSlots ∧ s.chans.length = cfg.nDmaCh ∧
    s.ctl.length = cfg.buses.length ∧
    (∀ (i : Nat) (e : Desc) (h : HostDesc), s.descs[i]? = some e → hs[i]? = some h →
      e = ⟨h.bus, h.freq, h.strategy, h.timeout, h.slave, h.iaddr, h.isize, .none, 0, 0, 0, false⟩) ∧
    (∀ y ∈ s.slots, y.owner = none ∧ y.pid = none ∧ y.ptr = none ∧ y.transferred = 0 ∧ y.size = 0 ∧ y.bufLo = 0 ∧ y.bufHi = 0) ∧
    (∀ y ∈ s.chans, y = (⟨false, 0, .read, 0, 0, false, false, 0, 0, false, false⟩ : Chan)) ∧
    (∀ y ∈ s.ctl, y = (⟨0, false, .none, false⟩ : Ctl))

/-- The state after reset is the launch state of the parameters and host-supplied values the model names (log 1, log 10, log 11). The
invariant holds there, and at every launch whose parameters are in range, with one descriptor per index and memory in its canonical
form. -/
def Obligations.ResetInvariant : Prop :=
  State.reset = State.launch Config.reset (List.replicate 4 ⟨0, 0, .polling, 0, 0, 0, 0⟩) [] ∧ State.reset.Inv ∧
  ∀ (cfg : Config) (hs : List HostDesc) (m : Memory), cfg.wf = true → hs.length = cfg.nDesc → Memory.wf m = true →
    (State.launch cfg hs m).Inv

/-- Every step keeps the invariant: the tables' sizes, RR in range (10_state.md R29), memory and cache in canonical form (20_memory.md R60, R65),
every slot free or wholly bound with its pointer in step with its count (10_state.md R27, 43_async.md R202), every channel's count within
its length, and the foreground at a micro-step of its operation with what the steps before it have checked. -/
def Obligations.StepKeepsInvariant : Prop :=
  ∀ s t : State, s.Inv → step s = .next t → t.Inv

end
end

