-- ==== Sys2Proof/Laws/Memory.lean ====
section
/-! SUPPORT. The laws of sparse tables and of data memory: read after write, and that every operation keeps the canonical
form. -/

namespace Sys2Proof.Machine

section Assoc
variable {α : Type} (l : List (Nat × α)) (k j : Nat) (v : α)

@[simp] theorem assocGet_put_same : assocGet (assocPut l k v) k = some v := by
  induction l with
  | nil => simp [assocPut, assocGet]
  | cons e r ih =>
    unfold assocPut
    split
    · simp [assocGet]
    · split
      · simp [assocGet]
      · rename_i h1 h2
        simp [assocGet, h2, ih]

theorem assocGet_put_ne (h : j ≠ k) : assocGet (assocPut l k v) j = assocGet l j := by
  induction l with
  | nil => simp [assocPut, assocGet, h]
  | cons e r ih =>
    unfold assocPut
    split
    · simp [assocGet, h]
    · split
      · rename_i h1 h2
        have : j ≠ e.1 := by omega
        simp [assocGet, h, this]
      · simp [assocGet, ih]

@[simp] theorem assocGet_del_same : assocGet (assocDel l k) k = none := by
  induction l with
  | nil => simp [assocDel, assocGet]
  | cons e r ih =>
    unfold assocDel at ih ⊢
    by_cases h : e.1 = k
    · simpa [h] using ih
    · rw [List.filter_cons_of_pos (by simpa using h)]
      simp only [assocGet]
      rw [if_neg (fun h' => h h'.symm)]
      exact ih

theorem assocGet_del_ne (h : j ≠ k) : assocGet (assocDel l k) j = assocGet l j := by
  induction l with
  | nil => simp [assocDel, assocGet]
  | cons e r ih =>
    unfold assocDel at ih ⊢
    by_cases h' : e.1 = k
    · rw [List.filter_cons_of_neg (by simpa using h')]
      simp only [assocGet]
      rw [if_neg (by omega), ih]
    · rw [List.filter_cons_of_pos (by simpa using h')]
      simp only [assocGet, ih]

variable {l k v}

theorem mem_assocPut {x : Nat × α} (h : x ∈ assocPut l k v) : x = (k, v) ∨ x ∈ l := by
  induction l with
  | nil => simpa [assocPut] using h
  | cons e r ih =>
    unfold assocPut at h
    split at h
    · simpa using h
    · split at h
      · rcases List.mem_cons.1 h with h | h
        · exact .inl h
        · exact .inr (List.mem_cons_of_mem _ h)
      · rcases List.mem_cons.1 h with h | h
        · exact .inr (h ▸ List.mem_cons_self)
        · exact (ih h).imp_right (List.mem_cons_of_mem _)

theorem mem_assocDel {x : Nat × α} (h : x ∈ assocDel l k) : x ∈ l ∧ x.1 ≠ k := by
  simpa [assocDel] using h

theorem mem_of_assocGet (h : assocGet l k = some v) : (k, v) ∈ l := by
  induction l with
  | nil => simp [assocGet] at h
  | cons e r ih =>
    unfold assocGet at h
    split at h
    · rename_i hk
      obtain ⟨e1, e2⟩ := e
      simp at h hk
      simp [h, hk]
    · exact List.mem_cons_of_mem _ (ih h)

theorem assocSorted_put (h : assocSorted l = true) : assocSorted (assocPut l k v) = true := by
  induction l with
  | nil => simp [assocPut, assocSorted]
  | cons e r ih =>
    simp only [assocSorted, Bool.and_eq_true, List.all_eq_true, decide_eq_true_eq] at h
    unfold assocPut
    split
    · rename_i hk
      simp only [assocSorted, Bool.and_eq_true, List.all_eq_true, decide_eq_true_eq]
      refine ⟨?_, h⟩
      intro x hx
      rcases List.mem_cons.1 hx with rfl | hx
      · exact hk
      · exact lt_trans hk (h.1 x hx)
    · split
      · rename_i hk
        simp only [assocSorted, Bool.and_eq_true, List.all_eq_true, decide_eq_true_eq]
        exact ⟨fun x hx => by have := h.1 x hx; simp at hk ⊢; omega, h.2⟩
      · rename_i h1 h2
        simp only [assocSorted, Bool.and_eq_true, List.all_eq_true, decide_eq_true_eq]
        refine ⟨?_, ih h.2⟩
        intro x hx
        rcases mem_assocPut hx with rfl | hx
        · simp; omega
        · exact h.1 x hx

theorem assocSorted_filter (p : Nat × α → Bool) (h : assocSorted l = true) : assocSorted (l.filter p) = true := by
  induction l with
  | nil => simp [assocSorted]
  | cons e r ih =>
    simp only [assocSorted, Bool.and_eq_true, List.all_eq_true, decide_eq_true_eq] at h
    rw [List.filter_cons]
    split
    · simp only [assocSorted, Bool.and_eq_true, List.all_eq_true, decide_eq_true_eq]
      exact ⟨fun x hx => h.1 x (List.mem_of_mem_filter hx), ih h.2⟩
    · exact ih h.2

theorem assocSorted_del (h : assocSorted l = true) : assocSorted (assocDel l k) = true :=
  assocSorted_filter _ h

/-- A map that keeps the keys keeps the order. -/
theorem assocSorted_map {f : Nat × α → Nat × α} (hf : ∀ e, (f e).1 = e.1) (h : assocSorted l = true) :
    assocSorted (l.map f) = true := by
  induction l with
  | nil => simp [assocSorted]
  | cons e r ih =>
    simp only [assocSorted, Bool.and_eq_true, List.all_eq_true, decide_eq_true_eq] at h
    simp only [List.map_cons, assocSorted, Bool.and_eq_true, List.all_eq_true, decide_eq_true_eq]
    refine ⟨?_, ih h.2⟩
    intro x hx
    obtain ⟨y, hy, rfl⟩ := List.mem_map.1 hx
    rw [hf, hf]
    exact h.1 y hy

/-- In a sorted table the listed value of a key is the only one. -/
theorem assocGet_of_mem (h : assocSorted l = true) (hm : (k, v) ∈ l) : assocGet l k = some v := by
  induction l with
  | nil => simp at hm
  | cons e r ih =>
    simp only [assocSorted, Bool.and_eq_true, List.all_eq_true, decide_eq_true_eq] at h
    unfold assocGet
    rcases List.mem_cons.1 hm with rfl | hm
    · simp
    · have := h.1 _ hm
      rw [if_neg (by simp at this; omega)]
      exact ih h.2 hm

theorem assocGet_eq_none (h : ∀ x ∈ l, x.1 ≠ k) : assocGet l k = none := by
  induction l with
  | nil => rfl
  | cons e r ih =>
    unfold assocGet
    rw [if_neg (fun hk => h e List.mem_cons_self hk.symm)]
    exact ih (fun x hx => h x (List.mem_cons_of_mem _ hx))

/-- Looking up in a filtered table whose test reads the key only. -/
theorem assocGet_filter_key (p : Nat → Bool) :
    assocGet (l.filter (fun e => p e.1)) k = if p k then assocGet l k else none := by
  induction l with
  | nil => simp [assocGet]
  | cons e r ih =>
    by_cases hp : p e.1
    · rw [List.filter_cons_of_pos (p := fun e : Nat × α => p e.1) hp]
      simp only [assocGet, ih]
      by_cases hk : k = e.1
      · simp [hk, hp]
      · simp [hk]
    · rw [List.filter_cons_of_neg (p := fun e : Nat × α => p e.1) hp, ih]
      by_cases hk : k = e.1
      · simp [hk, hp]
      · simp [assocGet, hk]

/-- Looking up in a table whose values were mapped under their keys. -/
theorem assocGet_map_key (g : Nat → α → α) :
    assocGet (l.map (fun e => (e.1, g e.1 e.2))) k = (assocGet l k).map (g k) := by
  induction l with
  | nil => simp [assocGet]
  | cons e r ih =>
    simp only [List.map_cons, assocGet]
    by_cases hk : k = e.1
    · simp [hk]
    · simp [hk, ih]

end Assoc

/-! ## Data memory -/

section Memory
variable (m : Memory) (a b : Nat) (v : Byte)

@[simp] theorem Memory.read_write_same : Memory.read (Memory.write m a v) a = v := by
  unfold Memory.read Memory.write
  split
  · rename_i h; simp [h]
  · simp

theorem Memory.read_write_ne (h : b ≠ a) : Memory.read (Memory.write m a v) b = Memory.read m b := by
  unfold Memory.read Memory.write
  split
  · rw [assocGet_del_ne _ _ _ h]
  · rw [assocGet_put_ne _ _ _ _ h]

theorem Memory.read_write : Memory.read (Memory.write m a v) b = if b = a then v else Memory.read m b := by
  split
  · rename_i h; subst h; exact Memory.read_write_same _ _ _
  · exact Memory.read_write_ne _ _ _ _ ‹_›

theorem Memory.wf_nil : Memory.wf [] = true := by decide

variable {m a v}

theorem Memory.wf_write (h : Memory.wf m = true) (ha : a < 2 ^ 32) : Memory.wf (Memory.write m a v) = true := by
  simp only [Memory.wf, Bool.and_eq_true, List.all_eq_true, decide_eq_true_eq] at h ⊢
  unfold Memory.write
  split
  · exact ⟨assocSorted_del h.1, fun x hx => h.2 x (mem_assocDel hx).1⟩
  · rename_i hv
    refine ⟨assocSorted_put h.1, fun x hx => ?_⟩
    rcases mem_assocPut hx with rfl | hx
    · exact ⟨ha, by simpa using hv⟩
    · exact h.2 x hx

theorem Memory.wf_writeBytes {vs : List Byte} (h : Memory.wf m = true) (ha : a + vs.length ≤ 2 ^ 32) :
    Memory.wf (Memory.writeBytes m a vs) = true := by
  induction vs generalizing m a with
  | nil => exact h
  | cons v vs ih =>
    simp only [List.length_cons] at ha
    exact ih (Memory.wf_write h (by omega)) (by omega)

/-- What a block write leaves: the written bytes inside it, the old bytes outside. -/
theorem Memory.read_writeBytes (vs : List Byte) :
    Memory.read (Memory.writeBytes m a vs) b =
      if a ≤ b ∧ b < a + vs.length then vs.getD (b - a) (Memory.read m b) else Memory.read m b := by
  induction vs generalizing m a with
  | nil => simp [Memory.writeBytes]
  | cons v vs ih =>
    rw [Memory.writeBytes, ih, Memory.read_write]
    by_cases hb : b = a
    · subst hb; simp
    · by_cases hin : a ≤ b ∧ b < a + (v :: vs).length
      · obtain ⟨h1, h2⟩ := hin
        simp only [List.length_cons] at h2
        have e : b - a = (b - (a + 1)) + 1 := by omega
        rw [if_pos ⟨by omega, by omega⟩, if_neg hb, if_pos ⟨h1, by simpa using h2⟩, e, List.getD_cons_succ]
      · have : ¬ (a + 1 ≤ b ∧ b < a + 1 + vs.length) := by
          simp only [List.length_cons] at hin; omega
        rw [if_neg this, if_neg hin, if_neg hb]

/-- Two memories in canonical form that read alike are the same data. -/
theorem Memory.ext_of_read {m m' : Memory} (h : Memory.wf m = true) (h' : Memory.wf m' = true)
    (heq : ∀ b, Memory.read m b = Memory.read m' b) : m = m' := by
  induction m generalizing m' with
  | nil =>
    cases m' with
    | nil => rfl
    | cons e r =>
      simp only [Memory.wf, Bool.and_eq_true, List.all_eq_true, decide_eq_true_eq] at h'
      have h1 := heq e.1
      have h2 := (h'.2 e List.mem_cons_self).2
      simp [Memory.read, assocGet] at h1
      simp [← h1] at h2
  | cons e r ih =>
    simp only [Memory.wf, Bool.and_eq_true, List.all_eq_true, decide_eq_true_eq] at h
    cases m' with
    | nil =>
      have h1 := heq e.1
      have h2 := (h.2 e List.mem_cons_self).2
      simp [Memory.read, assocGet] at h1
      simp [h1] at h2
    | cons e' r' =>
      have hw' := h'
      simp only [Memory.wf, Bool.and_eq_true, List.all_eq_true, decide_eq_true_eq] at h'
      have hs := h.1
      have hs' := h'.1
      simp only [assocSorted, Bool.and_eq_true, List.all_eq_true, decide_eq_true_eq] at hs hs'
      have ne_fill : e.2 ≠ Memory.fill := by simpa using (h.2 e List.mem_cons_self).2
      have ne_fill' : e'.2 ≠ Memory.fill := by simpa using (h'.2 e' List.mem_cons_self).2
      have key : e.1 = e'.1 := by
        rcases Nat.lt_trichotomy e.1 e'.1 with hlt | heq' | hgt
        · have := heq e.1
          have hn : assocGet (e' :: r') e.1 = none := assocGet_eq_none (fun x hx => by
            rcases List.mem_cons.1 hx with rfl | hx
            · omega
            · have := hs'.1 x hx; omega)
          unfold Memory.read at this
          rw [hn] at this
          exact absurd (by simpa [assocGet] using this) ne_fill
        · exact heq'
        · have := heq e'.1
          have hn : assocGet (e :: r) e'.1 = none := assocGet_eq_none (fun x hx => by
            rcases List.mem_cons.1 hx with rfl | hx
            · omega
            · have := hs.1 x hx; omega)
          unfold Memory.read at this
          rw [hn] at this
          exact absurd (by simpa [assocGet] using this.symm) ne_fill'
      have val : e.2 = e'.2 := by
        have := heq e.1
        simpa [Memory.read, assocGet, key] using this
      have ee : e = e' := Prod.ext key val
      subst ee
      refine congrArg _ (ih ?_ ?_ ?_)
      · simp only [Memory.wf, Bool.and_eq_true, List.all_eq_true, decide_eq_true_eq]
        exact ⟨hs.2, fun x hx => h.2 x (List.mem_cons_of_mem _ hx)⟩
      · simp only [Memory.wf, Bool.and_eq_true, List.all_eq_true, decide_eq_true_eq]
        exact ⟨hs'.2, fun x hx => h'.2 x (List.mem_cons_of_mem _ hx)⟩
      · intro b
        by_cases hb : b = e.1
        · have n1 : assocGet r b = none := assocGet_eq_none (fun x hx => by have := hs.1 x hx; omega)
          have n2 : assocGet r' b = none := assocGet_eq_none (fun x hx => by have := hs'.1 x hx; omega)
          simp [Memory.read, n1, n2]
        · have := heq b
          simpa [Memory.read, assocGet, hb] using this

end Memory

end Sys2Proof.Machine
end

