-- ==== Sys2Proof/Laws/State.lean ====
section
/-! SUPPORT. What each update of the state leaves in each field, one lemma per field per update, for `simp`. -/

namespace Sys2Proof.Machine

/-! ### `record` -/

@[simp] theorem record_cfg (s : State) (e : Event) : (s.record e).cfg = s.cfg := rfl
@[simp] theorem record_fg (s : State) (e : Event) : (s.record e).fg = s.fg := rfl
@[simp] theorem record_result (s : State) (e : Event) : (s.record e).result = s.result := rfl
@[simp] theorem record_descs (s : State) (e : Event) : (s.record e).descs = s.descs := rfl
@[simp] theorem record_slots (s : State) (e : Event) : (s.record e).slots = s.slots := rfl
@[simp] theorem record_rr (s : State) (e : Event) : (s.record e).rr = s.rr := rfl
@[simp] theorem record_chans (s : State) (e : Event) : (s.record e).chans = s.chans := rfl
@[simp] theorem record_ctl (s : State) (e : Event) : (s.record e).ctl = s.ctl := rfl
@[simp] theorem record_mem (s : State) (e : Event) : (s.record e).mem = s.mem := rfl
@[simp] theorem record_cache (s : State) (e : Event) : (s.record e).cache = s.cache := rfl
@[simp] theorem record_hz (s : State) (e : Event) : (s.record e).hz = s.hz := rfl
@[simp] theorem record_fault (s : State) (e : Event) : (s.record e).fault = s.fault := rfl
@[simp] theorem record_refused (s : State) (e : Event) : (s.record e).refused = s.refused := rfl
@[simp] theorem record_hist (s : State) (e : Event) : (s.record e).hist = s.hist ++ [e] := rfl
@[simp] theorem record_inputs (s : State) (e : Event) : (s.record e).inputs = s.inputs := rfl
@[simp] theorem record_answers (s : State) (e : Event) : (s.record e).answers = s.answers := rfl
@[simp] theorem record_drawNo (s : State) (e : Event) : (s.record e).drawNo = s.drawNo := rfl

/-! ### `consume` -/

@[simp] theorem consume_cfg (s : State) : (s.consume).cfg = s.cfg := rfl
@[simp] theorem consume_fg (s : State) : (s.consume).fg = s.fg := rfl
@[simp] theorem consume_result (s : State) : (s.consume).result = s.result := rfl
@[simp] theorem consume_descs (s : State) : (s.consume).descs = s.descs := rfl
@[simp] theorem consume_slots (s : State) : (s.consume).slots = s.slots := rfl
@[simp] theorem consume_rr (s : State) : (s.consume).rr = s.rr := rfl
@[simp] theorem consume_chans (s : State) : (s.consume).chans = s.chans := rfl
@[simp] theorem consume_ctl (s : State) : (s.consume).ctl = s.ctl := rfl
@[simp] theorem consume_mem (s : State) : (s.consume).mem = s.mem := rfl
@[simp] theorem consume_cache (s : State) : (s.consume).cache = s.cache := rfl
@[simp] theorem consume_hz (s : State) : (s.consume).hz = s.hz := rfl
@[simp] theorem consume_fault (s : State) : (s.consume).fault = s.fault := rfl
@[simp] theorem consume_refused (s : State) : (s.consume).refused = s.refused := rfl
@[simp] theorem consume_hist (s : State) : (s.consume).hist = s.hist := rfl
@[simp] theorem consume_inputs (s : State) : (s.consume).inputs = s.inputs := rfl
@[simp] theorem consume_answers (s : State) : (s.consume).answers = s.answers.tail := rfl
@[simp] theorem consume_drawNo (s : State) : (s.consume).drawNo = s.drawNo + 1 := rfl

/-! ### `choose` -/

@[simp] theorem choose_cfg (s : State) : (s.choose).cfg = s.cfg := rfl
@[simp] theorem choose_fg (s : State) : (s.choose).fg = s.fg := rfl
@[simp] theorem choose_result (s : State) : (s.choose).result = s.result := rfl
@[simp] theorem choose_descs (s : State) : (s.choose).descs = s.descs := rfl
@[simp] theorem choose_slots (s : State) : (s.choose).slots = s.slots := rfl
@[simp] theorem choose_rr (s : State) : (s.choose).rr = s.rr := rfl
@[simp] theorem choose_chans (s : State) : (s.choose).chans = s.chans := rfl
@[simp] theorem choose_ctl (s : State) : (s.choose).ctl = s.ctl := rfl
@[simp] theorem choose_mem (s : State) : (s.choose).mem = s.mem := rfl
@[simp] theorem choose_cache (s : State) : (s.choose).cache = s.cache := rfl
@[simp] theorem choose_hz (s : State) : (s.choose).hz = s.hz := rfl
@[simp] theorem choose_fault (s : State) : (s.choose).fault = s.fault := rfl
@[simp] theorem choose_refused (s : State) : (s.choose).refused = s.refused := rfl
@[simp] theorem choose_hist (s : State) : (s.choose).hist = s.hist ++ [.choice (s.answer % 2)] := rfl
@[simp] theorem choose_inputs (s : State) : (s.choose).inputs = s.inputs := rfl
@[simp] theorem choose_answers (s : State) : (s.choose).answers = s.answers.tail := rfl
@[simp] theorem choose_drawNo (s : State) : (s.choose).drawNo = s.drawNo + 1 := rfl

/-! ### `drawByte` -/

@[simp] theorem drawByte_cfg (s : State) : (s.drawByte).cfg = s.cfg := rfl
@[simp] theorem drawByte_fg (s : State) : (s.drawByte).fg = s.fg := rfl
@[simp] theorem drawByte_result (s : State) : (s.drawByte).result = s.result := rfl
@[simp] theorem drawByte_descs (s : State) : (s.drawByte).descs = s.descs := rfl
@[simp] theorem drawByte_slots (s : State) : (s.drawByte).slots = s.slots := rfl
@[simp] theorem drawByte_rr (s : State) : (s.drawByte).rr = s.rr := rfl
@[simp] theorem drawByte_chans (s : State) : (s.drawByte).chans = s.chans := rfl
@[simp] theorem drawByte_ctl (s : State) : (s.drawByte).ctl = s.ctl := rfl
@[simp] theorem drawByte_mem (s : State) : (s.drawByte).mem = s.mem := rfl
@[simp] theorem drawByte_cache (s : State) : (s.drawByte).cache = s.cache := rfl
@[simp] theorem drawByte_hz (s : State) : (s.drawByte).hz = s.hz := rfl
@[simp] theorem drawByte_fault (s : State) : (s.drawByte).fault = s.fault := rfl
@[simp] theorem drawByte_refused (s : State) : (s.drawByte).refused = s.refused := rfl
@[simp] theorem drawByte_inputs (s : State) : (s.drawByte).inputs = s.inputs := rfl
@[simp] theorem drawByte_hist (s : State) : (s.drawByte).hist = s.hist ++ [.choice s.answerByte.toNat] := rfl
@[simp] theorem drawByte_answers (s : State) : (s.drawByte).answers = s.answers.tail := rfl
@[simp] theorem drawByte_drawNo (s : State) : (s.drawByte).drawNo = s.drawNo + 1 := rfl

/-! ### `fillLine` -/

@[simp] theorem fillLine_cfg (s : State) (a : Nat) : (s.fillLine a).cfg = s.cfg := rfl
@[simp] theorem fillLine_fg (s : State) (a : Nat) : (s.fillLine a).fg = s.fg := rfl
@[simp] theorem fillLine_result (s : State) (a : Nat) : (s.fillLine a).result = s.result := rfl
@[simp] theorem fillLine_descs (s : State) (a : Nat) : (s.fillLine a).descs = s.descs := rfl
@[simp] theorem fillLine_slots (s : State) (a : Nat) : (s.fillLine a).slots = s.slots := rfl
@[simp] theorem fillLine_rr (s : State) (a : Nat) : (s.fillLine a).rr = s.rr := rfl
@[simp] theorem fillLine_chans (s : State) (a : Nat) : (s.fillLine a).chans = s.chans := rfl
@[simp] theorem fillLine_ctl (s : State) (a : Nat) : (s.fillLine a).ctl = s.ctl := rfl
@[simp] theorem fillLine_mem (s : State) (a : Nat) : (s.fillLine a).mem = s.mem := rfl
@[simp] theorem fillLine_cache (s : State) (a : Nat) :
    (s.fillLine a).cache =
      assocPut s.cache (lineBase s.cfg a) ⟨.clean, Memory.readBytes s.mem (lineBase s.cfg a) s.cfg.cacheLine⟩ := rfl
@[simp] theorem fillLine_hz (s : State) (a : Nat) : (s.fillLine a).hz = s.hz := rfl
@[simp] theorem fillLine_fault (s : State) (a : Nat) : (s.fillLine a).fault = s.fault := rfl
@[simp] theorem fillLine_refused (s : State) (a : Nat) : (s.fillLine a).refused = s.refused := rfl
@[simp] theorem fillLine_hist (s : State) (a : Nat) : (s.fillLine a).hist = s.hist := rfl
@[simp] theorem fillLine_inputs (s : State) (a : Nat) : (s.fillLine a).inputs = s.inputs := rfl
@[simp] theorem fillLine_answers (s : State) (a : Nat) : (s.fillLine a).answers = s.answers := rfl
@[simp] theorem fillLine_drawNo (s : State) (a : Nat) : (s.fillLine a).drawNo = s.drawNo := rfl

/-! ### `evictLine` -/

@[simp] theorem evictLine_cfg (s : State) (a : Nat) : (s.evictLine a).cfg = s.cfg := rfl
@[simp] theorem evictLine_fg (s : State) (a : Nat) : (s.evictLine a).fg = s.fg := rfl
@[simp] theorem evictLine_result (s : State) (a : Nat) : (s.evictLine a).result = s.result := rfl
@[simp] theorem evictLine_descs (s : State) (a : Nat) : (s.evictLine a).descs = s.descs := rfl
@[simp] theorem evictLine_slots (s : State) (a : Nat) : (s.evictLine a).slots = s.slots := rfl
@[simp] theorem evictLine_rr (s : State) (a : Nat) : (s.evictLine a).rr = s.rr := rfl
@[simp] theorem evictLine_chans (s : State) (a : Nat) : (s.evictLine a).chans = s.chans := rfl
@[simp] theorem evictLine_ctl (s : State) (a : Nat) : (s.evictLine a).ctl = s.ctl := rfl
@[simp] theorem evictLine_mem (s : State) (a : Nat) :
    (s.evictLine a).mem =
      writeBack (fun b => b == lineBase s.cfg a) s.cache s.mem := rfl
@[simp] theorem evictLine_cache (s : State) (a : Nat) :
    (s.evictLine a).cache =
      assocDel s.cache (lineBase s.cfg a) := rfl
@[simp] theorem evictLine_hz (s : State) (a : Nat) : (s.evictLine a).hz = s.hz := rfl
@[simp] theorem evictLine_fault (s : State) (a : Nat) : (s.evictLine a).fault = s.fault := rfl
@[simp] theorem evictLine_refused (s : State) (a : Nat) : (s.evictLine a).refused = s.refused := rfl
@[simp] theorem evictLine_hist (s : State) (a : Nat) : (s.evictLine a).hist = s.hist := rfl
@[simp] theorem evictLine_inputs (s : State) (a : Nat) : (s.evictLine a).inputs = s.inputs := rfl
@[simp] theorem evictLine_answers (s : State) (a : Nat) : (s.evictLine a).answers = s.answers := rfl
@[simp] theorem evictLine_drawNo (s : State) (a : Nat) : (s.evictLine a).drawNo = s.drawNo := rfl

/-! ### `modifyDesc` -/

@[simp] theorem modifyDesc_cfg (s : State) (d : Idx) (f : Desc → Desc) : (s.modifyDesc d f).cfg = s.cfg := rfl
@[simp] theorem modifyDesc_fg (s : State) (d : Idx) (f : Desc → Desc) : (s.modifyDesc d f).fg = s.fg := rfl
@[simp] theorem modifyDesc_result (s : State) (d : Idx) (f : Desc → Desc) :
    (s.modifyDesc d f).result =
      s.result := rfl
@[simp] theorem modifyDesc_descs (s : State) (d : Idx) (f : Desc → Desc) :
    (s.modifyDesc d f).descs =
      s.descs.modify d.toNat f := rfl
@[simp] theorem modifyDesc_slots (s : State) (d : Idx) (f : Desc → Desc) :
    (s.modifyDesc d f).slots =
      s.slots := rfl
@[simp] theorem modifyDesc_rr (s : State) (d : Idx) (f : Desc → Desc) : (s.modifyDesc d f).rr = s.rr := rfl
@[simp] theorem modifyDesc_chans (s : State) (d : Idx) (f : Desc → Desc) :
    (s.modifyDesc d f).chans =
      s.chans := rfl
@[simp] theorem modifyDesc_ctl (s : State) (d : Idx) (f : Desc → Desc) : (s.modifyDesc d f).ctl = s.ctl := rfl
@[simp] theorem modifyDesc_mem (s : State) (d : Idx) (f : Desc → Desc) : (s.modifyDesc d f).mem = s.mem := rfl
@[simp] theorem modifyDesc_cache (s : State) (d : Idx) (f : Desc → Desc) :
    (s.modifyDesc d f).cache =
      s.cache := rfl
@[simp] theorem modifyDesc_hz (s : State) (d : Idx) (f : Desc → Desc) : (s.modifyDesc d f).hz = s.hz := rfl
@[simp] theorem modifyDesc_fault (s : State) (d : Idx) (f : Desc → Desc) :
    (s.modifyDesc d f).fault =
      s.fault := rfl
@[simp] theorem modifyDesc_refused (s : State) (d : Idx) (f : Desc → Desc) :
    (s.modifyDesc d f).refused =
      s.refused := rfl
@[simp] theorem modifyDesc_hist (s : State) (d : Idx) (f : Desc → Desc) :
    (s.modifyDesc d f).hist =
      s.hist := rfl
@[simp] theorem modifyDesc_inputs (s : State) (d : Idx) (f : Desc → Desc) :
    (s.modifyDesc d f).inputs =
      s.inputs := rfl
@[simp] theorem modifyDesc_answers (s : State) (d : Idx) (f : Desc → Desc) :
    (s.modifyDesc d f).answers =
      s.answers := rfl
@[simp] theorem modifyDesc_drawNo (s : State) (d : Idx) (f : Desc → Desc) :
    (s.modifyDesc d f).drawNo =
      s.drawNo := rfl

/-! ### `modifySlot` -/

@[simp] theorem modifySlot_cfg (s : State) (k : Nat) (f : Slot → Slot) : (s.modifySlot k f).cfg = s.cfg := rfl
@[simp] theorem modifySlot_fg (s : State) (k : Nat) (f : Slot → Slot) : (s.modifySlot k f).fg = s.fg := rfl
@[simp] theorem modifySlot_result (s : State) (k : Nat) (f : Slot → Slot) :
    (s.modifySlot k f).result =
      s.result := rfl
@[simp] theorem modifySlot_descs (s : State) (k : Nat) (f : Slot → Slot) :
    (s.modifySlot k f).descs =
      s.descs := rfl
@[simp] theorem modifySlot_slots (s : State) (k : Nat) (f : Slot → Slot) :
    (s.modifySlot k f).slots =
      s.slots.modify k f := rfl
@[simp] theorem modifySlot_rr (s : State) (k : Nat) (f : Slot → Slot) : (s.modifySlot k f).rr = s.rr := rfl
@[simp] theorem modifySlot_chans (s : State) (k : Nat) (f : Slot → Slot) :
    (s.modifySlot k f).chans =
      s.chans := rfl
@[simp] theorem modifySlot_ctl (s : State) (k : Nat) (f : Slot → Slot) : (s.modifySlot k f).ctl = s.ctl := rfl
@[simp] theorem modifySlot_mem (s : State) (k : Nat) (f : Slot → Slot) : (s.modifySlot k f).mem = s.mem := rfl
@[simp] theorem modifySlot_cache (s : State) (k : Nat) (f : Slot → Slot) :
    (s.modifySlot k f).cache =
      s.cache := rfl
@[simp] theorem modifySlot_hz (s : State) (k : Nat) (f : Slot → Slot) : (s.modifySlot k f).hz = s.hz := rfl
@[simp] theorem modifySlot_fault (s : State) (k : Nat) (f : Slot → Slot) :
    (s.modifySlot k f).fault =
      s.fault := rfl
@[simp] theorem modifySlot_refused (s : State) (k : Nat) (f : Slot → Slot) :
    (s.modifySlot k f).refused =
      s.refused := rfl
@[simp] theorem modifySlot_hist (s : State) (k : Nat) (f : Slot → Slot) :
    (s.modifySlot k f).hist =
      s.hist := rfl
@[simp] theorem modifySlot_inputs (s : State) (k : Nat) (f : Slot → Slot) :
    (s.modifySlot k f).inputs =
      s.inputs := rfl
@[simp] theorem modifySlot_answers (s : State) (k : Nat) (f : Slot → Slot) :
    (s.modifySlot k f).answers =
      s.answers := rfl
@[simp] theorem modifySlot_drawNo (s : State) (k : Nat) (f : Slot → Slot) :
    (s.modifySlot k f).drawNo =
      s.drawNo := rfl

/-! ### `modifyChan` -/

@[simp] theorem modifyChan_cfg (s : State) (c : Idx) (f : Chan → Chan) : (s.modifyChan c f).cfg = s.cfg := rfl
@[simp] theorem modifyChan_fg (s : State) (c : Idx) (f : Chan → Chan) : (s.modifyChan c f).fg = s.fg := rfl
@[simp] theorem modifyChan_result (s : State) (c : Idx) (f : Chan → Chan) :
    (s.modifyChan c f).result =
      s.result := rfl
@[simp] theorem modifyChan_descs (s : State) (c : Idx) (f : Chan → Chan) :
    (s.modifyChan c f).descs =
      s.descs := rfl
@[simp] theorem modifyChan_slots (s : State) (c : Idx) (f : Chan → Chan) :
    (s.modifyChan c f).slots =
      s.slots := rfl
@[simp] theorem modifyChan_rr (s : State) (c : Idx) (f : Chan → Chan) : (s.modifyChan c f).rr = s.rr := rfl
@[simp] theorem modifyChan_chans (s : State) (c : Idx) (f : Chan → Chan) :
    (s.modifyChan c f).chans =
      s.chans.modify c.toNat f := rfl
@[simp] theorem modifyChan_ctl (s : State) (c : Idx) (f : Chan → Chan) : (s.modifyChan c f).ctl = s.ctl := rfl
@[simp] theorem modifyChan_mem (s : State) (c : Idx) (f : Chan → Chan) : (s.modifyChan c f).mem = s.mem := rfl
@[simp] theorem modifyChan_cache (s : State) (c : Idx) (f : Chan → Chan) :
    (s.modifyChan c f).cache =
      s.cache := rfl
@[simp] theorem modifyChan_hz (s : State) (c : Idx) (f : Chan → Chan) : (s.modifyChan c f).hz = s.hz := rfl
@[simp] theorem modifyChan_fault (s : State) (c : Idx) (f : Chan → Chan) :
    (s.modifyChan c f).fault =
      s.fault := rfl
@[simp] theorem modifyChan_refused (s : State) (c : Idx) (f : Chan → Chan) :
    (s.modifyChan c f).refused =
      s.refused := rfl
@[simp] theorem modifyChan_hist (s : State) (c : Idx) (f : Chan → Chan) :
    (s.modifyChan c f).hist =
      s.hist := rfl
@[simp] theorem modifyChan_inputs (s : State) (c : Idx) (f : Chan → Chan) :
    (s.modifyChan c f).inputs =
      s.inputs := rfl
@[simp] theorem modifyChan_answers (s : State) (c : Idx) (f : Chan → Chan) :
    (s.modifyChan c f).answers =
      s.answers := rfl
@[simp] theorem modifyChan_drawNo (s : State) (c : Idx) (f : Chan → Chan) :
    (s.modifyChan c f).drawNo =
      s.drawNo := rfl

/-! ### `modifyCtl` -/

@[simp] theorem modifyCtl_cfg (s : State) (b : Idx) (f : Ctl → Ctl) : (s.modifyCtl b f).cfg = s.cfg := rfl
@[simp] theorem modifyCtl_fg (s : State) (b : Idx) (f : Ctl → Ctl) : (s.modifyCtl b f).fg = s.fg := rfl
@[simp] theorem modifyCtl_result (s : State) (b : Idx) (f : Ctl → Ctl) :
    (s.modifyCtl b f).result =
      s.result := rfl
@[simp] theorem modifyCtl_descs (s : State) (b : Idx) (f : Ctl → Ctl) :
    (s.modifyCtl b f).descs =
      s.descs := rfl
@[simp] theorem modifyCtl_slots (s : State) (b : Idx) (f : Ctl → Ctl) :
    (s.modifyCtl b f).slots =
      s.slots := rfl
@[simp] theorem modifyCtl_rr (s : State) (b : Idx) (f : Ctl → Ctl) : (s.modifyCtl b f).rr = s.rr := rfl
@[simp] theorem modifyCtl_chans (s : State) (b : Idx) (f : Ctl → Ctl) :
    (s.modifyCtl b f).chans =
      s.chans := rfl
@[simp] theorem modifyCtl_ctl (s : State) (b : Idx) (f : Ctl → Ctl) :
    (s.modifyCtl b f).ctl =
      s.ctl.modify b.toNat f := rfl
@[simp] theorem modifyCtl_mem (s : State) (b : Idx) (f : Ctl → Ctl) : (s.modifyCtl b f).mem = s.mem := rfl
@[simp] theorem modifyCtl_cache (s : State) (b : Idx) (f : Ctl → Ctl) :
    (s.modifyCtl b f).cache =
      s.cache := rfl
@[simp] theorem modifyCtl_hz (s : State) (b : Idx) (f : Ctl → Ctl) : (s.modifyCtl b f).hz = s.hz := rfl
@[simp] theorem modifyCtl_fault (s : State) (b : Idx) (f : Ctl → Ctl) :
    (s.modifyCtl b f).fault =
      s.fault := rfl
@[simp] theorem modifyCtl_refused (s : State) (b : Idx) (f : Ctl → Ctl) :
    (s.modifyCtl b f).refused =
      s.refused := rfl
@[simp] theorem modifyCtl_hist (s : State) (b : Idx) (f : Ctl → Ctl) : (s.modifyCtl b f).hist = s.hist := rfl
@[simp] theorem modifyCtl_inputs (s : State) (b : Idx) (f : Ctl → Ctl) :
    (s.modifyCtl b f).inputs =
      s.inputs := rfl
@[simp] theorem modifyCtl_answers (s : State) (b : Idx) (f : Ctl → Ctl) :
    (s.modifyCtl b f).answers =
      s.answers := rfl
@[simp] theorem modifyCtl_drawNo (s : State) (b : Idx) (f : Ctl → Ctl) :
    (s.modifyCtl b f).drawNo =
      s.drawNo := rfl

/-! ### `raise` -/

@[simp] theorem raise_cfg (s : State) (f : Fault) : (s.raise f).cfg = s.cfg := rfl
@[simp] theorem raise_fg (s : State) (f : Fault) : (s.raise f).fg = s.fg := rfl
@[simp] theorem raise_result (s : State) (f : Fault) : (s.raise f).result = s.result := rfl
@[simp] theorem raise_descs (s : State) (f : Fault) : (s.raise f).descs = s.descs := rfl
@[simp] theorem raise_slots (s : State) (f : Fault) : (s.raise f).slots = s.slots := rfl
@[simp] theorem raise_rr (s : State) (f : Fault) : (s.raise f).rr = s.rr := rfl
@[simp] theorem raise_chans (s : State) (f : Fault) : (s.raise f).chans = s.chans := rfl
@[simp] theorem raise_ctl (s : State) (f : Fault) : (s.raise f).ctl = s.ctl := rfl
@[simp] theorem raise_mem (s : State) (f : Fault) : (s.raise f).mem = s.mem := rfl
@[simp] theorem raise_cache (s : State) (f : Fault) : (s.raise f).cache = s.cache := rfl
@[simp] theorem raise_hz (s : State) (f : Fault) : (s.raise f).hz = s.hz := rfl
@[simp] theorem raise_fault (s : State) (f : Fault) : (s.raise f).fault = some f := rfl
@[simp] theorem raise_refused (s : State) (f : Fault) : (s.raise f).refused = s.refused := rfl
@[simp] theorem raise_hist (s : State) (f : Fault) : (s.raise f).hist = s.hist := rfl
@[simp] theorem raise_inputs (s : State) (f : Fault) : (s.raise f).inputs = s.inputs := rfl
@[simp] theorem raise_answers (s : State) (f : Fault) : (s.raise f).answers = s.answers := rfl
@[simp] theorem raise_drawNo (s : State) (f : Fault) : (s.raise f).drawNo = s.drawNo := rfl

/-! ### `refuse` -/

@[simp] theorem refuse_cfg (s : State) (r : Refusal) : (s.refuse r).cfg = s.cfg := rfl
@[simp] theorem refuse_fg (s : State) (r : Refusal) : (s.refuse r).fg = s.fg := rfl
@[simp] theorem refuse_result (s : State) (r : Refusal) : (s.refuse r).result = s.result := rfl
@[simp] theorem refuse_descs (s : State) (r : Refusal) : (s.refuse r).descs = s.descs := rfl
@[simp] theorem refuse_slots (s : State) (r : Refusal) : (s.refuse r).slots = s.slots := rfl
@[simp] theorem refuse_rr (s : State) (r : Refusal) : (s.refuse r).rr = s.rr := rfl
@[simp] theorem refuse_chans (s : State) (r : Refusal) : (s.refuse r).chans = s.chans := rfl
@[simp] theorem refuse_ctl (s : State) (r : Refusal) : (s.refuse r).ctl = s.ctl := rfl
@[simp] theorem refuse_mem (s : State) (r : Refusal) : (s.refuse r).mem = s.mem := rfl
@[simp] theorem refuse_cache (s : State) (r : Refusal) : (s.refuse r).cache = s.cache := rfl
@[simp] theorem refuse_hz (s : State) (r : Refusal) : (s.refuse r).hz = s.hz := rfl
@[simp] theorem refuse_fault (s : State) (r : Refusal) : (s.refuse r).fault = s.fault := rfl
@[simp] theorem refuse_refused (s : State) (r : Refusal) : (s.refuse r).refused = some r := rfl
@[simp] theorem refuse_hist (s : State) (r : Refusal) : (s.refuse r).hist = s.hist := rfl
@[simp] theorem refuse_inputs (s : State) (r : Refusal) : (s.refuse r).inputs = s.inputs := rfl
@[simp] theorem refuse_answers (s : State) (r : Refusal) : (s.refuse r).answers = s.answers := rfl
@[simp] theorem refuse_drawNo (s : State) (r : Refusal) : (s.refuse r).drawNo = s.drawNo := rfl

/-! ### `goto` -/

@[simp] theorem goto_cfg (s : State) (op : Instr) (l : Label) (x : Locals) :
    (s.goto op l x).cfg =
      s.cfg := rfl
@[simp] theorem goto_fg (s : State) (op : Instr) (l : Label) (x : Locals) :
    (s.goto op l x).fg =
      .busy op l x := rfl
@[simp] theorem goto_result (s : State) (op : Instr) (l : Label) (x : Locals) :
    (s.goto op l x).result =
      s.result := rfl
@[simp] theorem goto_descs (s : State) (op : Instr) (l : Label) (x : Locals) :
    (s.goto op l x).descs =
      s.descs := rfl
@[simp] theorem goto_slots (s : State) (op : Instr) (l : Label) (x : Locals) :
    (s.goto op l x).slots =
      s.slots := rfl
@[simp] theorem goto_rr (s : State) (op : Instr) (l : Label) (x : Locals) : (s.goto op l x).rr = s.rr := rfl
@[simp] theorem goto_chans (s : State) (op : Instr) (l : Label) (x : Locals) :
    (s.goto op l x).chans =
      s.chans := rfl
@[simp] theorem goto_ctl (s : State) (op : Instr) (l : Label) (x : Locals) :
    (s.goto op l x).ctl =
      s.ctl := rfl
@[simp] theorem goto_mem (s : State) (op : Instr) (l : Label) (x : Locals) :
    (s.goto op l x).mem =
      s.mem := rfl
@[simp] theorem goto_cache (s : State) (op : Instr) (l : Label) (x : Locals) :
    (s.goto op l x).cache =
      s.cache := rfl
@[simp] theorem goto_hz (s : State) (op : Instr) (l : Label) (x : Locals) : (s.goto op l x).hz = s.hz := rfl
@[simp] theorem goto_fault (s : State) (op : Instr) (l : Label) (x : Locals) :
    (s.goto op l x).fault =
      s.fault := rfl
@[simp] theorem goto_refused (s : State) (op : Instr) (l : Label) (x : Locals) :
    (s.goto op l x).refused =
      s.refused := rfl
@[simp] theorem goto_hist (s : State) (op : Instr) (l : Label) (x : Locals) :
    (s.goto op l x).hist =
      s.hist := rfl
@[simp] theorem goto_inputs (s : State) (op : Instr) (l : Label) (x : Locals) :
    (s.goto op l x).inputs =
      s.inputs := rfl
@[simp] theorem goto_answers (s : State) (op : Instr) (l : Label) (x : Locals) :
    (s.goto op l x).answers =
      s.answers := rfl
@[simp] theorem goto_drawNo (s : State) (op : Instr) (l : Label) (x : Locals) :
    (s.goto op l x).drawNo =
      s.drawNo := rfl

/-! ### `finish` -/

@[simp] theorem finish_cfg (s : State) (o : Opcode) (r : Option Word) : (s.finish o r).cfg = s.cfg := rfl
@[simp] theorem finish_fg (s : State) (o : Opcode) (r : Option Word) : (s.finish o r).fg = .idle := rfl
@[simp] theorem finish_result (s : State) (o : Opcode) (r : Option Word) : (s.finish o r).result = r := rfl
@[simp] theorem finish_descs (s : State) (o : Opcode) (r : Option Word) :
    (s.finish o r).descs =
      s.descs := rfl
@[simp] theorem finish_slots (s : State) (o : Opcode) (r : Option Word) :
    (s.finish o r).slots =
      s.slots := rfl
@[simp] theorem finish_rr (s : State) (o : Opcode) (r : Option Word) : (s.finish o r).rr = s.rr := rfl
@[simp] theorem finish_chans (s : State) (o : Opcode) (r : Option Word) :
    (s.finish o r).chans =
      s.chans := rfl
@[simp] theorem finish_ctl (s : State) (o : Opcode) (r : Option Word) : (s.finish o r).ctl = s.ctl := rfl
@[simp] theorem finish_mem (s : State) (o : Opcode) (r : Option Word) : (s.finish o r).mem = s.mem := rfl
@[simp] theorem finish_cache (s : State) (o : Opcode) (r : Option Word) :
    (s.finish o r).cache =
      s.cache := rfl
@[simp] theorem finish_hz (s : State) (o : Opcode) (r : Option Word) : (s.finish o r).hz = s.hz := rfl
@[simp] theorem finish_fault (s : State) (o : Opcode) (r : Option Word) :
    (s.finish o r).fault =
      s.fault := rfl
@[simp] theorem finish_refused (s : State) (o : Opcode) (r : Option Word) :
    (s.finish o r).refused =
      s.refused := rfl
@[simp] theorem finish_hist (s : State) (o : Opcode) (r : Option Word) :
    (s.finish o r).hist =
      s.hist ++ [.ret o r] := rfl
@[simp] theorem finish_inputs (s : State) (o : Opcode) (r : Option Word) :
    (s.finish o r).inputs =
      s.inputs := rfl
@[simp] theorem finish_answers (s : State) (o : Opcode) (r : Option Word) :
    (s.finish o r).answers =
      s.answers := rfl
@[simp] theorem finish_drawNo (s : State) (o : Opcode) (r : Option Word) :
    (s.finish o r).drawNo =
      s.drawNo := rfl

/-! ### `engineReturn` -/

@[simp] theorem engineReturn_cfg (s : State) (op : Instr) (x : Locals) (st : Status) :
    (s.engineReturn op x st).cfg =
      s.cfg := rfl
@[simp] theorem engineReturn_fg (s : State) (op : Instr) (x : Locals) (st : Status) :
    (s.engineReturn op x st).fg =
      .busy op .s9 { x with st := st } := rfl
@[simp] theorem engineReturn_result (s : State) (op : Instr) (x : Locals) (st : Status) :
    (s.engineReturn op x st).result =
      s.result := rfl
@[simp] theorem engineReturn_descs (s : State) (op : Instr) (x : Locals) (st : Status) :
    (s.engineReturn op x st).descs =
      s.descs := rfl
@[simp] theorem engineReturn_slots (s : State) (op : Instr) (x : Locals) (st : Status) :
    (s.engineReturn op x st).slots =
      s.slots := rfl
@[simp] theorem engineReturn_rr (s : State) (op : Instr) (x : Locals) (st : Status) :
    (s.engineReturn op x st).rr =
      s.rr := rfl
@[simp] theorem engineReturn_chans (s : State) (op : Instr) (x : Locals) (st : Status) :
    (s.engineReturn op x st).chans =
      s.chans := rfl
@[simp] theorem engineReturn_ctl (s : State) (op : Instr) (x : Locals) (st : Status) :
    (s.engineReturn op x st).ctl =
      s.ctl := rfl
@[simp] theorem engineReturn_mem (s : State) (op : Instr) (x : Locals) (st : Status) :
    (s.engineReturn op x st).mem =
      s.mem := rfl
@[simp] theorem engineReturn_cache (s : State) (op : Instr) (x : Locals) (st : Status) :
    (s.engineReturn op x st).cache =
      s.cache := rfl
@[simp] theorem engineReturn_hz (s : State) (op : Instr) (x : Locals) (st : Status) :
    (s.engineReturn op x st).hz =
      s.hz := rfl
@[simp] theorem engineReturn_fault (s : State) (op : Instr) (x : Locals) (st : Status) :
    (s.engineReturn op x st).fault =
      s.fault := rfl
@[simp] theorem engineReturn_refused (s : State) (op : Instr) (x : Locals) (st : Status) :
    (s.engineReturn op x st).refused =
      s.refused := rfl
@[simp] theorem engineReturn_hist (s : State) (op : Instr) (x : Locals) (st : Status) :
    (s.engineReturn op x st).hist =
      s.hist := rfl
@[simp] theorem engineReturn_inputs (s : State) (op : Instr) (x : Locals) (st : Status) :
    (s.engineReturn op x st).inputs =
      s.inputs := rfl
@[simp] theorem engineReturn_answers (s : State) (op : Instr) (x : Locals) (st : Status) :
    (s.engineReturn op x st).answers =
      s.answers := rfl
@[simp] theorem engineReturn_drawNo (s : State) (op : Instr) (x : Locals) (st : Status) :
    (s.engineReturn op x st).drawNo =
      s.drawNo := rfl

/-! ### `markCbReplaced` -/

@[simp] theorem markCbReplaced_cfg (s : State) (d : Idx) : (s.markCbReplaced d).cfg = s.cfg := rfl
@[simp] theorem markCbReplaced_fg (s : State) (d : Idx) : (s.markCbReplaced d).fg = s.fg := rfl
@[simp] theorem markCbReplaced_result (s : State) (d : Idx) : (s.markCbReplaced d).result = s.result := rfl
@[simp] theorem markCbReplaced_descs (s : State) (d : Idx) : (s.markCbReplaced d).descs = s.descs := rfl
@[simp] theorem markCbReplaced_slots (s : State) (d : Idx) : (s.markCbReplaced d).slots = s.slots := rfl
@[simp] theorem markCbReplaced_rr (s : State) (d : Idx) : (s.markCbReplaced d).rr = s.rr := rfl
@[simp] theorem markCbReplaced_chans (s : State) (d : Idx) : (s.markCbReplaced d).chans = s.chans := rfl
@[simp] theorem markCbReplaced_ctl (s : State) (d : Idx) : (s.markCbReplaced d).ctl = s.ctl := rfl
@[simp] theorem markCbReplaced_mem (s : State) (d : Idx) : (s.markCbReplaced d).mem = s.mem := rfl
@[simp] theorem markCbReplaced_cache (s : State) (d : Idx) : (s.markCbReplaced d).cache = s.cache := rfl
@[simp] theorem markCbReplaced_hz (s : State) (d : Idx) :
    (s.markCbReplaced d).hz =
      { s.hz with cbReplaced := s.hz.cbReplaced || s.dmaActiveFor d } := rfl
@[simp] theorem markCbReplaced_fault (s : State) (d : Idx) : (s.markCbReplaced d).fault = s.fault := rfl
@[simp] theorem markCbReplaced_refused (s : State) (d : Idx) : (s.markCbReplaced d).refused = s.refused := rfl
@[simp] theorem markCbReplaced_hist (s : State) (d : Idx) : (s.markCbReplaced d).hist = s.hist := rfl
@[simp] theorem markCbReplaced_inputs (s : State) (d : Idx) : (s.markCbReplaced d).inputs = s.inputs := rfl
@[simp] theorem markCbReplaced_answers (s : State) (d : Idx) : (s.markCbReplaced d).answers = s.answers := rfl
@[simp] theorem markCbReplaced_drawNo (s : State) (d : Idx) : (s.markCbReplaced d).drawNo = s.drawNo := rfl

/-! ### `markOverrun` -/

@[simp] theorem markOverrun_cfg (s : State) (k : Nat) : (s.markOverrun k).cfg = s.cfg := rfl
@[simp] theorem markOverrun_fg (s : State) (k : Nat) : (s.markOverrun k).fg = s.fg := rfl
@[simp] theorem markOverrun_result (s : State) (k : Nat) : (s.markOverrun k).result = s.result := rfl
@[simp] theorem markOverrun_descs (s : State) (k : Nat) : (s.markOverrun k).descs = s.descs := rfl
@[simp] theorem markOverrun_slots (s : State) (k : Nat) : (s.markOverrun k).slots = s.slots := rfl
@[simp] theorem markOverrun_rr (s : State) (k : Nat) : (s.markOverrun k).rr = s.rr := rfl
@[simp] theorem markOverrun_chans (s : State) (k : Nat) : (s.markOverrun k).chans = s.chans := rfl
@[simp] theorem markOverrun_ctl (s : State) (k : Nat) : (s.markOverrun k).ctl = s.ctl := rfl
@[simp] theorem markOverrun_mem (s : State) (k : Nat) : (s.markOverrun k).mem = s.mem := rfl
@[simp] theorem markOverrun_cache (s : State) (k : Nat) : (s.markOverrun k).cache = s.cache := rfl
@[simp] theorem markOverrun_hz (s : State) (k : Nat) :
    (s.markOverrun k).hz =
      { s.hz with slotOverrun := s.hz.slotOverrun || !(s.slot k).free } := rfl
@[simp] theorem markOverrun_fault (s : State) (k : Nat) : (s.markOverrun k).fault = s.fault := rfl
@[simp] theorem markOverrun_refused (s : State) (k : Nat) : (s.markOverrun k).refused = s.refused := rfl
@[simp] theorem markOverrun_hist (s : State) (k : Nat) : (s.markOverrun k).hist = s.hist := rfl
@[simp] theorem markOverrun_inputs (s : State) (k : Nat) : (s.markOverrun k).inputs = s.inputs := rfl
@[simp] theorem markOverrun_answers (s : State) (k : Nat) : (s.markOverrun k).answers = s.answers := rfl
@[simp] theorem markOverrun_drawNo (s : State) (k : Nat) : (s.markOverrun k).drawNo = s.drawNo := rfl

/-! ### `markDup` -/

@[simp] theorem markDup_cfg (s : State) (k : Nat) (p : Idx) : (s.markDup k p).cfg = s.cfg := rfl
@[simp] theorem markDup_fg (s : State) (k : Nat) (p : Idx) : (s.markDup k p).fg = s.fg := rfl
@[simp] theorem markDup_result (s : State) (k : Nat) (p : Idx) : (s.markDup k p).result = s.result := rfl
@[simp] theorem markDup_descs (s : State) (k : Nat) (p : Idx) : (s.markDup k p).descs = s.descs := rfl
@[simp] theorem markDup_slots (s : State) (k : Nat) (p : Idx) : (s.markDup k p).slots = s.slots := rfl
@[simp] theorem markDup_rr (s : State) (k : Nat) (p : Idx) : (s.markDup k p).rr = s.rr := rfl
@[simp] theorem markDup_chans (s : State) (k : Nat) (p : Idx) : (s.markDup k p).chans = s.chans := rfl
@[simp] theorem markDup_ctl (s : State) (k : Nat) (p : Idx) : (s.markDup k p).ctl = s.ctl := rfl
@[simp] theorem markDup_mem (s : State) (k : Nat) (p : Idx) : (s.markDup k p).mem = s.mem := rfl
@[simp] theorem markDup_cache (s : State) (k : Nat) (p : Idx) : (s.markDup k p).cache = s.cache := rfl
@[simp] theorem markDup_hz (s : State) (k : Nat) (p : Idx) :
    (s.markDup k p).hz =
      { s.hz with dupBinding := s.hz.dupBinding || s.boundElsewhere k p } := rfl
@[simp] theorem markDup_fault (s : State) (k : Nat) (p : Idx) : (s.markDup k p).fault = s.fault := rfl
@[simp] theorem markDup_refused (s : State) (k : Nat) (p : Idx) : (s.markDup k p).refused = s.refused := rfl
@[simp] theorem markDup_hist (s : State) (k : Nat) (p : Idx) : (s.markDup k p).hist = s.hist := rfl
@[simp] theorem markDup_inputs (s : State) (k : Nat) (p : Idx) : (s.markDup k p).inputs = s.inputs := rfl
@[simp] theorem markDup_answers (s : State) (k : Nat) (p : Idx) : (s.markDup k p).answers = s.answers := rfl
@[simp] theorem markDup_drawNo (s : State) (k : Nat) (p : Idx) : (s.markDup k p).drawNo = s.drawNo := rfl

/-! ### `markUnmatched` -/

@[simp] theorem markUnmatched_cfg (s : State) : (s.markUnmatched).cfg = s.cfg := rfl
@[simp] theorem markUnmatched_fg (s : State) : (s.markUnmatched).fg = s.fg := rfl
@[simp] theorem markUnmatched_result (s : State) : (s.markUnmatched).result = s.result := rfl
@[simp] theorem markUnmatched_descs (s : State) : (s.markUnmatched).descs = s.descs := rfl
@[simp] theorem markUnmatched_slots (s : State) : (s.markUnmatched).slots = s.slots := rfl
@[simp] theorem markUnmatched_rr (s : State) : (s.markUnmatched).rr = s.rr := rfl
@[simp] theorem markUnmatched_chans (s : State) : (s.markUnmatched).chans = s.chans := rfl
@[simp] theorem markUnmatched_ctl (s : State) : (s.markUnmatched).ctl = s.ctl := rfl
@[simp] theorem markUnmatched_mem (s : State) : (s.markUnmatched).mem = s.mem := rfl
@[simp] theorem markUnmatched_cache (s : State) : (s.markUnmatched).cache = s.cache := rfl
@[simp] theorem markUnmatched_hz (s : State) :
    (s.markUnmatched).hz =
      { s.hz with unmatchedIrq := true } := rfl
@[simp] theorem markUnmatched_fault (s : State) : (s.markUnmatched).fault = s.fault := rfl
@[simp] theorem markUnmatched_refused (s : State) : (s.markUnmatched).refused = s.refused := rfl
@[simp] theorem markUnmatched_hist (s : State) : (s.markUnmatched).hist = s.hist := rfl
@[simp] theorem markUnmatched_inputs (s : State) : (s.markUnmatched).inputs = s.inputs := rfl
@[simp] theorem markUnmatched_answers (s : State) : (s.markUnmatched).answers = s.answers := rfl
@[simp] theorem markUnmatched_drawNo (s : State) : (s.markUnmatched).drawNo = s.drawNo := rfl

/-! ### `popInput` -/

@[simp] theorem popInput_cfg (s : State) : (s.popInput).cfg = s.cfg := rfl
@[simp] theorem popInput_fg (s : State) : (s.popInput).fg = s.fg := rfl
@[simp] theorem popInput_result (s : State) : (s.popInput).result = s.result := rfl
@[simp] theorem popInput_descs (s : State) : (s.popInput).descs = s.descs := rfl
@[simp] theorem popInput_slots (s : State) : (s.popInput).slots = s.slots := rfl
@[simp] theorem popInput_rr (s : State) : (s.popInput).rr = s.rr := rfl
@[simp] theorem popInput_chans (s : State) : (s.popInput).chans = s.chans := rfl
@[simp] theorem popInput_ctl (s : State) : (s.popInput).ctl = s.ctl := rfl
@[simp] theorem popInput_mem (s : State) : (s.popInput).mem = s.mem := rfl
@[simp] theorem popInput_cache (s : State) : (s.popInput).cache = s.cache := rfl
@[simp] theorem popInput_hz (s : State) : (s.popInput).hz = s.hz := rfl
@[simp] theorem popInput_fault (s : State) : (s.popInput).fault = s.fault := rfl
@[simp] theorem popInput_refused (s : State) : (s.popInput).refused = s.refused := rfl
@[simp] theorem popInput_hist (s : State) : (s.popInput).hist = s.hist := rfl
@[simp] theorem popInput_inputs (s : State) : (s.popInput).inputs = s.inputs.tail := rfl
@[simp] theorem popInput_answers (s : State) : (s.popInput).answers = s.answers := rfl
@[simp] theorem popInput_drawNo (s : State) : (s.popInput).drawNo = s.drawNo := rfl

/-! ### `drawEvent` -/

/-- What `drawEvent` changes: the history, by the event of an interrupt-context command. -/
theorem drawEvent_eq (s : State) (i : Instr) :
    s.drawEvent i = { s with hist := s.hist ++ if i.opcode.foreground then [] else [.presented i] } := by
  unfold State.drawEvent State.record
  split <;> simp

@[simp] theorem drawEvent_cfg (s : State) (i : Instr) : (s.drawEvent i).cfg = s.cfg := by rw [drawEvent_eq]
@[simp] theorem drawEvent_fg (s : State) (i : Instr) : (s.drawEvent i).fg = s.fg := by rw [drawEvent_eq]
@[simp] theorem drawEvent_result (s : State) (i : Instr) : (s.drawEvent i).result = s.result := by rw [drawEvent_eq]
@[simp] theorem drawEvent_descs (s : State) (i : Instr) : (s.drawEvent i).descs = s.descs := by rw [drawEvent_eq]
@[simp] theorem drawEvent_slots (s : State) (i : Instr) : (s.drawEvent i).slots = s.slots := by rw [drawEvent_eq]
@[simp] theorem drawEvent_rr (s : State) (i : Instr) : (s.drawEvent i).rr = s.rr := by rw [drawEvent_eq]
@[simp] theorem drawEvent_chans (s : State) (i : Instr) : (s.drawEvent i).chans = s.chans := by rw [drawEvent_eq]
@[simp] theorem drawEvent_ctl (s : State) (i : Instr) : (s.drawEvent i).ctl = s.ctl := by rw [drawEvent_eq]
@[simp] theorem drawEvent_mem (s : State) (i : Instr) : (s.drawEvent i).mem = s.mem := by rw [drawEvent_eq]
@[simp] theorem drawEvent_cache (s : State) (i : Instr) : (s.drawEvent i).cache = s.cache := by rw [drawEvent_eq]
@[simp] theorem drawEvent_hz (s : State) (i : Instr) : (s.drawEvent i).hz = s.hz := by rw [drawEvent_eq]
@[simp] theorem drawEvent_fault (s : State) (i : Instr) : (s.drawEvent i).fault = s.fault := by rw [drawEvent_eq]
@[simp] theorem drawEvent_refused (s : State) (i : Instr) : (s.drawEvent i).refused = s.refused := by rw [drawEvent_eq]
@[simp] theorem drawEvent_inputs (s : State) (i : Instr) : (s.drawEvent i).inputs = s.inputs := by rw [drawEvent_eq]
@[simp] theorem drawEvent_answers (s : State) (i : Instr) : (s.drawEvent i).answers = s.answers := by rw [drawEvent_eq]
@[simp] theorem drawEvent_drawNo (s : State) (i : Instr) : (s.drawEvent i).drawNo = s.drawNo := by rw [drawEvent_eq]
@[simp] theorem drawEvent_hist (s : State) (i : Instr) :
    (s.drawEvent i).hist = s.hist ++ if i.opcode.foreground then [] else [.presented i] := by rw [drawEvent_eq]

end Sys2Proof.Machine
end

