-- ==== Sys2Proof/Laws/Ops.lean ====
section
/-! SUPPORT. What the shared operations leave unchanged, and what they write: one lemma per field, cited instead of unfolding. -/

namespace Sys2Proof.Machine

/-! ### `perform` -/

@[simp] theorem perform_cfg (s : State) (c : Cmd) : (s.perform c).cfg = s.cfg := by
  cases c <;> first | rfl | (simp only [State.perform, State.cleanRange, State.invalidateRange]; split <;> rfl)
@[simp] theorem perform_fg (s : State) (c : Cmd) : (s.perform c).fg = s.fg := by
  cases c <;> first | rfl | (simp only [State.perform, State.cleanRange, State.invalidateRange]; split <;> rfl)
@[simp] theorem perform_result (s : State) (c : Cmd) : (s.perform c).result = s.result := by
  cases c <;> first | rfl | (simp only [State.perform, State.cleanRange, State.invalidateRange]; split <;> rfl)
@[simp] theorem perform_descs (s : State) (c : Cmd) : (s.perform c).descs = s.descs := by
  cases c <;> first | rfl | (simp only [State.perform, State.cleanRange, State.invalidateRange]; split <;> rfl)
@[simp] theorem perform_slots (s : State) (c : Cmd) : (s.perform c).slots = s.slots := by
  cases c <;> first | rfl | (simp only [State.perform, State.cleanRange, State.invalidateRange]; split <;> rfl)
@[simp] theorem perform_rr (s : State) (c : Cmd) : (s.perform c).rr = s.rr := by
  cases c <;> first | rfl | (simp only [State.perform, State.cleanRange, State.invalidateRange]; split <;> rfl)
@[simp] theorem perform_hz (s : State) (c : Cmd) : (s.perform c).hz = s.hz := by
  cases c <;> first | rfl | (simp only [State.perform, State.cleanRange, State.invalidateRange]; split <;> rfl)
@[simp] theorem perform_fault (s : State) (c : Cmd) : (s.perform c).fault = s.fault := by
  cases c <;> first | rfl | (simp only [State.perform, State.cleanRange, State.invalidateRange]; split <;> rfl)
@[simp] theorem perform_refused (s : State) (c : Cmd) : (s.perform c).refused = s.refused := by
  cases c <;> first | rfl | (simp only [State.perform, State.cleanRange, State.invalidateRange]; split <;> rfl)
@[simp] theorem perform_hist (s : State) (c : Cmd) : (s.perform c).hist = s.hist := by
  cases c <;> first | rfl | (simp only [State.perform, State.cleanRange, State.invalidateRange]; split <;> rfl)
@[simp] theorem perform_inputs (s : State) (c : Cmd) : (s.perform c).inputs = s.inputs := by
  cases c <;> first | rfl | (simp only [State.perform, State.cleanRange, State.invalidateRange]; split <;> rfl)
@[simp] theorem perform_answers (s : State) (c : Cmd) : (s.perform c).answers = s.answers := by
  cases c <;> first | rfl | (simp only [State.perform, State.cleanRange, State.invalidateRange]; split <;> rfl)
@[simp] theorem perform_drawNo (s : State) (c : Cmd) : (s.perform c).drawNo = s.drawNo := by
  cases c <;> first | rfl | (simp only [State.perform, State.cleanRange, State.invalidateRange]; split <;> rfl)

/-! ### `emit` -/

@[simp] theorem emit_cfg (s : State) (c : Cmd) : (s.emit c).cfg = s.cfg := by simp [State.emit]
@[simp] theorem emit_fg (s : State) (c : Cmd) : (s.emit c).fg = s.fg := by simp [State.emit]
@[simp] theorem emit_result (s : State) (c : Cmd) : (s.emit c).result = s.result := by simp [State.emit]
@[simp] theorem emit_descs (s : State) (c : Cmd) : (s.emit c).descs = s.descs := by simp [State.emit]
@[simp] theorem emit_slots (s : State) (c : Cmd) : (s.emit c).slots = s.slots := by simp [State.emit]
@[simp] theorem emit_rr (s : State) (c : Cmd) : (s.emit c).rr = s.rr := by simp [State.emit]
@[simp] theorem emit_hz (s : State) (c : Cmd) : (s.emit c).hz = s.hz := by simp [State.emit]
@[simp] theorem emit_fault (s : State) (c : Cmd) : (s.emit c).fault = s.fault := by simp [State.emit]
@[simp] theorem emit_refused (s : State) (c : Cmd) : (s.emit c).refused = s.refused := by simp [State.emit]
@[simp] theorem emit_inputs (s : State) (c : Cmd) : (s.emit c).inputs = s.inputs := by simp [State.emit]
@[simp] theorem emit_answers (s : State) (c : Cmd) : (s.emit c).answers = s.answers := by simp [State.emit]
@[simp] theorem emit_drawNo (s : State) (c : Cmd) : (s.emit c).drawNo = s.drawNo := by simp [State.emit]

/-! ### `allocate` -/

@[simp] theorem allocate_cfg (s : State) (a : Word) : (s.allocate a).cfg = s.cfg := by
  unfold State.allocate; split <;> [split <;> rfl; rfl]
@[simp] theorem allocate_fg (s : State) (a : Word) : (s.allocate a).fg = s.fg := by
  unfold State.allocate; split <;> [split <;> rfl; rfl]
@[simp] theorem allocate_result (s : State) (a : Word) : (s.allocate a).result = s.result := by
  unfold State.allocate; split <;> [split <;> rfl; rfl]
@[simp] theorem allocate_descs (s : State) (a : Word) : (s.allocate a).descs = s.descs := by
  unfold State.allocate; split <;> [split <;> rfl; rfl]
@[simp] theorem allocate_slots (s : State) (a : Word) : (s.allocate a).slots = s.slots := by
  unfold State.allocate; split <;> [split <;> rfl; rfl]
@[simp] theorem allocate_rr (s : State) (a : Word) : (s.allocate a).rr = s.rr := by
  unfold State.allocate; split <;> [split <;> rfl; rfl]
@[simp] theorem allocate_chans (s : State) (a : Word) : (s.allocate a).chans = s.chans := by
  unfold State.allocate; split <;> [split <;> rfl; rfl]
@[simp] theorem allocate_ctl (s : State) (a : Word) : (s.allocate a).ctl = s.ctl := by
  unfold State.allocate; split <;> [split <;> rfl; rfl]
@[simp] theorem allocate_mem (s : State) (a : Word) : (s.allocate a).mem = s.mem := by
  unfold State.allocate; split <;> [split <;> rfl; rfl]
@[simp] theorem allocate_hz (s : State) (a : Word) : (s.allocate a).hz = s.hz := by
  unfold State.allocate; split <;> [split <;> rfl; rfl]
@[simp] theorem allocate_fault (s : State) (a : Word) : (s.allocate a).fault = s.fault := by
  unfold State.allocate; split <;> [split <;> rfl; rfl]
@[simp] theorem allocate_refused (s : State) (a : Word) : (s.allocate a).refused = s.refused := by
  unfold State.allocate; split <;> [split <;> rfl; rfl]
@[simp] theorem allocate_inputs (s : State) (a : Word) : (s.allocate a).inputs = s.inputs := by
  unfold State.allocate; split <;> [split <;> rfl; rfl]

/-! ### `store` -/

@[simp] theorem store_cfg (s : State) (a : Word) (v : Byte) : (s.store a v).cfg = s.cfg := by
  unfold State.store; split <;> rfl
@[simp] theorem store_fg (s : State) (a : Word) (v : Byte) : (s.store a v).fg = s.fg := by
  unfold State.store; split <;> rfl
@[simp] theorem store_result (s : State) (a : Word) (v : Byte) : (s.store a v).result = s.result := by
  unfold State.store; split <;> rfl
@[simp] theorem store_descs (s : State) (a : Word) (v : Byte) : (s.store a v).descs = s.descs := by
  unfold State.store; split <;> rfl
@[simp] theorem store_slots (s : State) (a : Word) (v : Byte) : (s.store a v).slots = s.slots := by
  unfold State.store; split <;> rfl
@[simp] theorem store_rr (s : State) (a : Word) (v : Byte) : (s.store a v).rr = s.rr := by
  unfold State.store; split <;> rfl
@[simp] theorem store_chans (s : State) (a : Word) (v : Byte) : (s.store a v).chans = s.chans := by
  unfold State.store; split <;> rfl
@[simp] theorem store_ctl (s : State) (a : Word) (v : Byte) : (s.store a v).ctl = s.ctl := by
  unfold State.store; split <;> rfl
@[simp] theorem store_hz (s : State) (a : Word) (v : Byte) : (s.store a v).hz = s.hz := by
  unfold State.store; split <;> rfl
@[simp] theorem store_fault (s : State) (a : Word) (v : Byte) : (s.store a v).fault = s.fault := by
  unfold State.store; split <;> rfl
@[simp] theorem store_refused (s : State) (a : Word) (v : Byte) : (s.store a v).refused = s.refused := by
  unfold State.store; split <;> rfl
@[simp] theorem store_hist (s : State) (a : Word) (v : Byte) : (s.store a v).hist = s.hist := by
  unfold State.store; split <;> rfl
@[simp] theorem store_inputs (s : State) (a : Word) (v : Byte) : (s.store a v).inputs = s.inputs := by
  unfold State.store; split <;> rfl
@[simp] theorem store_answers (s : State) (a : Word) (v : Byte) : (s.store a v).answers = s.answers := by
  unfold State.store; split <;> rfl
@[simp] theorem store_drawNo (s : State) (a : Word) (v : Byte) : (s.store a v).drawNo = s.drawNo := by
  unfold State.store; split <;> rfl

/-! ### `cpuRead` -/

@[simp] theorem cpuRead_cfg (s : State) (a : Word) : (s.cpuRead a).cfg = s.cfg := by simp [State.cpuRead]
@[simp] theorem cpuRead_fg (s : State) (a : Word) : (s.cpuRead a).fg = s.fg := by simp [State.cpuRead]
@[simp] theorem cpuRead_result (s : State) (a : Word) : (s.cpuRead a).result = s.result := by simp [State.cpuRead]
@[simp] theorem cpuRead_descs (s : State) (a : Word) : (s.cpuRead a).descs = s.descs := by simp [State.cpuRead]
@[simp] theorem cpuRead_slots (s : State) (a : Word) : (s.cpuRead a).slots = s.slots := by simp [State.cpuRead]
@[simp] theorem cpuRead_rr (s : State) (a : Word) : (s.cpuRead a).rr = s.rr := by simp [State.cpuRead]
@[simp] theorem cpuRead_chans (s : State) (a : Word) : (s.cpuRead a).chans = s.chans := by simp [State.cpuRead]
@[simp] theorem cpuRead_ctl (s : State) (a : Word) : (s.cpuRead a).ctl = s.ctl := by simp [State.cpuRead]
@[simp] theorem cpuRead_mem (s : State) (a : Word) : (s.cpuRead a).mem = s.mem := by simp [State.cpuRead]
@[simp] theorem cpuRead_hz (s : State) (a : Word) : (s.cpuRead a).hz = s.hz := by simp [State.cpuRead]
@[simp] theorem cpuRead_fault (s : State) (a : Word) : (s.cpuRead a).fault = s.fault := by simp [State.cpuRead]
@[simp] theorem cpuRead_refused (s : State) (a : Word) : (s.cpuRead a).refused = s.refused := by simp [State.cpuRead]
@[simp] theorem cpuRead_inputs (s : State) (a : Word) : (s.cpuRead a).inputs = s.inputs := by simp [State.cpuRead]

/-! ### `cpuWrite` -/

@[simp] theorem cpuWrite_cfg (s : State) (a : Word) (v : Byte) : (s.cpuWrite a v).cfg = s.cfg := by simp [State.cpuWrite]
@[simp] theorem cpuWrite_fg (s : State) (a : Word) (v : Byte) : (s.cpuWrite a v).fg = s.fg := by simp [State.cpuWrite]
@[simp] theorem cpuWrite_result (s : State) (a : Word) (v : Byte) : (s.cpuWrite a v).result = s.result := by simp [State.cpuWrite]
@[simp] theorem cpuWrite_descs (s : State) (a : Word) (v : Byte) : (s.cpuWrite a v).descs = s.descs := by simp [State.cpuWrite]
@[simp] theorem cpuWrite_slots (s : State) (a : Word) (v : Byte) : (s.cpuWrite a v).slots = s.slots := by simp [State.cpuWrite]
@[simp] theorem cpuWrite_rr (s : State) (a : Word) (v : Byte) : (s.cpuWrite a v).rr = s.rr := by simp [State.cpuWrite]
@[simp] theorem cpuWrite_chans (s : State) (a : Word) (v : Byte) : (s.cpuWrite a v).chans = s.chans := by simp [State.cpuWrite]
@[simp] theorem cpuWrite_ctl (s : State) (a : Word) (v : Byte) : (s.cpuWrite a v).ctl = s.ctl := by simp [State.cpuWrite]
@[simp] theorem cpuWrite_hz (s : State) (a : Word) (v : Byte) : (s.cpuWrite a v).hz = s.hz := by simp [State.cpuWrite]
@[simp] theorem cpuWrite_fault (s : State) (a : Word) (v : Byte) : (s.cpuWrite a v).fault = s.fault := by simp [State.cpuWrite]
@[simp] theorem cpuWrite_refused (s : State) (a : Word) (v : Byte) : (s.cpuWrite a v).refused = s.refused := by simp [State.cpuWrite]
@[simp] theorem cpuWrite_inputs (s : State) (a : Word) (v : Byte) : (s.cpuWrite a v).inputs = s.inputs := by simp [State.cpuWrite]

/-! ### `unlock` -/

@[simp] theorem unlock_cfg (s : State) (d : Idx) : (s.unlock d).cfg = s.cfg := rfl
@[simp] theorem unlock_fg (s : State) (d : Idx) : (s.unlock d).fg = s.fg := rfl
@[simp] theorem unlock_result (s : State) (d : Idx) : (s.unlock d).result = s.result := rfl
@[simp] theorem unlock_slots (s : State) (d : Idx) : (s.unlock d).slots = s.slots := rfl
@[simp] theorem unlock_rr (s : State) (d : Idx) : (s.unlock d).rr = s.rr := rfl
@[simp] theorem unlock_chans (s : State) (d : Idx) : (s.unlock d).chans = s.chans := rfl
@[simp] theorem unlock_ctl (s : State) (d : Idx) : (s.unlock d).ctl = s.ctl := rfl
@[simp] theorem unlock_mem (s : State) (d : Idx) : (s.unlock d).mem = s.mem := rfl
@[simp] theorem unlock_cache (s : State) (d : Idx) : (s.unlock d).cache = s.cache := rfl
@[simp] theorem unlock_hz (s : State) (d : Idx) : (s.unlock d).hz = s.hz := rfl
@[simp] theorem unlock_fault (s : State) (d : Idx) : (s.unlock d).fault = s.fault := rfl
@[simp] theorem unlock_refused (s : State) (d : Idx) : (s.unlock d).refused = s.refused := rfl
@[simp] theorem unlock_hist (s : State) (d : Idx) : (s.unlock d).hist = s.hist := rfl
@[simp] theorem unlock_inputs (s : State) (d : Idx) : (s.unlock d).inputs = s.inputs := rfl
@[simp] theorem unlock_answers (s : State) (d : Idx) : (s.unlock d).answers = s.answers := rfl
@[simp] theorem unlock_drawNo (s : State) (d : Idx) : (s.unlock d).drawNo = s.drawNo := rfl

/-! ### `takeLock` -/

@[simp] theorem takeLock_cfg (s : State) (d : Idx) : (s.takeLock d).cfg = s.cfg := rfl
@[simp] theorem takeLock_fg (s : State) (d : Idx) : (s.takeLock d).fg = s.fg := rfl
@[simp] theorem takeLock_result (s : State) (d : Idx) : (s.takeLock d).result = s.result := rfl
@[simp] theorem takeLock_slots (s : State) (d : Idx) : (s.takeLock d).slots = s.slots := rfl
@[simp] theorem takeLock_rr (s : State) (d : Idx) : (s.takeLock d).rr = s.rr := rfl
@[simp] theorem takeLock_chans (s : State) (d : Idx) : (s.takeLock d).chans = s.chans := rfl
@[simp] theorem takeLock_ctl (s : State) (d : Idx) : (s.takeLock d).ctl = s.ctl := rfl
@[simp] theorem takeLock_mem (s : State) (d : Idx) : (s.takeLock d).mem = s.mem := rfl
@[simp] theorem takeLock_cache (s : State) (d : Idx) : (s.takeLock d).cache = s.cache := rfl
@[simp] theorem takeLock_hz (s : State) (d : Idx) : (s.takeLock d).hz = s.hz := rfl
@[simp] theorem takeLock_fault (s : State) (d : Idx) : (s.takeLock d).fault = s.fault := rfl
@[simp] theorem takeLock_refused (s : State) (d : Idx) : (s.takeLock d).refused = s.refused := rfl
@[simp] theorem takeLock_hist (s : State) (d : Idx) : (s.takeLock d).hist = s.hist := rfl
@[simp] theorem takeLock_inputs (s : State) (d : Idx) : (s.takeLock d).inputs = s.inputs := rfl
@[simp] theorem takeLock_answers (s : State) (d : Idx) : (s.takeLock d).answers = s.answers := rfl
@[simp] theorem takeLock_drawNo (s : State) (d : Idx) : (s.takeLock d).drawNo = s.drawNo := rfl

/-! ### `invokeCallback` -/

@[simp] theorem invokeCallback_cfg (s : State) (cb : Callback) (d : Idx) (args : Word) : (s.invokeCallback cb d args).cfg = s.cfg := by
  unfold State.invokeCallback; split <;> [skip; skip; split] <;> simp [State.emit, State.perform]
@[simp] theorem invokeCallback_fg (s : State) (cb : Callback) (d : Idx) (args : Word) : (s.invokeCallback cb d args).fg = s.fg := by
  unfold State.invokeCallback; split <;> [skip; skip; split] <;> simp [State.emit, State.perform]
@[simp] theorem invokeCallback_result (s : State) (cb : Callback) (d : Idx) (args : Word) : (s.invokeCallback cb d args).result = s.result := by
  unfold State.invokeCallback; split <;> [skip; skip; split] <;> simp [State.emit, State.perform]
@[simp] theorem invokeCallback_slots (s : State) (cb : Callback) (d : Idx) (args : Word) : (s.invokeCallback cb d args).slots = s.slots := by
  unfold State.invokeCallback; split <;> [skip; skip; split] <;> simp [State.emit, State.perform]
@[simp] theorem invokeCallback_rr (s : State) (cb : Callback) (d : Idx) (args : Word) : (s.invokeCallback cb d args).rr = s.rr := by
  unfold State.invokeCallback; split <;> [skip; skip; split] <;> simp [State.emit, State.perform]
@[simp] theorem invokeCallback_chans (s : State) (cb : Callback) (d : Idx) (args : Word) : (s.invokeCallback cb d args).chans = s.chans := by
  unfold State.invokeCallback; split <;> [skip; skip; split] <;> simp [State.emit, State.perform]
@[simp] theorem invokeCallback_ctl (s : State) (cb : Callback) (d : Idx) (args : Word) : (s.invokeCallback cb d args).ctl = s.ctl := by
  unfold State.invokeCallback; split <;> [skip; skip; split] <;> simp [State.emit, State.perform]
@[simp] theorem invokeCallback_mem (s : State) (cb : Callback) (d : Idx) (args : Word) : (s.invokeCallback cb d args).mem = s.mem := by
  unfold State.invokeCallback; split <;> [skip; skip; split] <;> simp [State.emit, State.perform]
@[simp] theorem invokeCallback_cache (s : State) (cb : Callback) (d : Idx) (args : Word) : (s.invokeCallback cb d args).cache = s.cache := by
  unfold State.invokeCallback; split <;> [skip; skip; split] <;> simp [State.emit, State.perform]
@[simp] theorem invokeCallback_hz (s : State) (cb : Callback) (d : Idx) (args : Word) : (s.invokeCallback cb d args).hz = s.hz := by
  unfold State.invokeCallback; split <;> [skip; skip; split] <;> simp [State.emit, State.perform]
@[simp] theorem invokeCallback_fault (s : State) (cb : Callback) (d : Idx) (args : Word) : (s.invokeCallback cb d args).fault = s.fault := by
  unfold State.invokeCallback; split <;> [skip; skip; split] <;> simp [State.emit, State.perform]
@[simp] theorem invokeCallback_refused (s : State) (cb : Callback) (d : Idx) (args : Word) : (s.invokeCallback cb d args).refused = s.refused := by
  unfold State.invokeCallback; split <;> [skip; skip; split] <;> simp [State.emit, State.perform]
@[simp] theorem invokeCallback_inputs (s : State) (cb : Callback) (d : Idx) (args : Word) : (s.invokeCallback cb d args).inputs = s.inputs := by
  unfold State.invokeCallback; split <;> [skip; skip; split] <;> simp [State.emit, State.perform]
@[simp] theorem invokeCallback_answers (s : State) (cb : Callback) (d : Idx) (args : Word) : (s.invokeCallback cb d args).answers = s.answers := by
  unfold State.invokeCallback; split <;> [skip; skip; split] <;> simp [State.emit, State.perform]
@[simp] theorem invokeCallback_drawNo (s : State) (cb : Callback) (d : Idx) (args : Word) : (s.invokeCallback cb d args).drawNo = s.drawNo := by
  unfold State.invokeCallback; split <;> [skip; skip; split] <;> simp [State.emit, State.perform]

/-! ### `dmaRead` -/

@[simp] theorem dmaRead_cfg (s : State) (a : Word) : (s.dmaRead a).cfg = s.cfg := by
  unfold State.dmaRead; split <;> rfl
@[simp] theorem dmaRead_fg (s : State) (a : Word) : (s.dmaRead a).fg = s.fg := by
  unfold State.dmaRead; split <;> rfl
@[simp] theorem dmaRead_result (s : State) (a : Word) : (s.dmaRead a).result = s.result := by
  unfold State.dmaRead; split <;> rfl
@[simp] theorem dmaRead_descs (s : State) (a : Word) : (s.dmaRead a).descs = s.descs := by
  unfold State.dmaRead; split <;> rfl
@[simp] theorem dmaRead_slots (s : State) (a : Word) : (s.dmaRead a).slots = s.slots := by
  unfold State.dmaRead; split <;> rfl
@[simp] theorem dmaRead_rr (s : State) (a : Word) : (s.dmaRead a).rr = s.rr := by
  unfold State.dmaRead; split <;> rfl
@[simp] theorem dmaRead_chans (s : State) (a : Word) : (s.dmaRead a).chans = s.chans := by
  unfold State.dmaRead; split <;> rfl
@[simp] theorem dmaRead_ctl (s : State) (a : Word) : (s.dmaRead a).ctl = s.ctl := by
  unfold State.dmaRead; split <;> rfl
@[simp] theorem dmaRead_mem (s : State) (a : Word) : (s.dmaRead a).mem = s.mem := by
  unfold State.dmaRead; split <;> rfl
@[simp] theorem dmaRead_cache (s : State) (a : Word) : (s.dmaRead a).cache = s.cache := by
  unfold State.dmaRead; split <;> rfl
@[simp] theorem dmaRead_hz (s : State) (a : Word) : (s.dmaRead a).hz = s.hz := by
  unfold State.dmaRead; split <;> rfl
@[simp] theorem dmaRead_fault (s : State) (a : Word) : (s.dmaRead a).fault = s.fault := by
  unfold State.dmaRead; split <;> rfl
@[simp] theorem dmaRead_refused (s : State) (a : Word) : (s.dmaRead a).refused = s.refused := by
  unfold State.dmaRead; split <;> rfl
@[simp] theorem dmaRead_inputs (s : State) (a : Word) : (s.dmaRead a).inputs = s.inputs := by
  unfold State.dmaRead; split <;> rfl

/-! ### `dmaWrite` -/

@[simp] theorem dmaWrite_cfg (s : State) (a : Word) (v : Byte) : (s.dmaWrite a v).cfg = s.cfg := by
  unfold State.dmaWrite; split <;> rfl
@[simp] theorem dmaWrite_fg (s : State) (a : Word) (v : Byte) : (s.dmaWrite a v).fg = s.fg := by
  unfold State.dmaWrite; split <;> rfl
@[simp] theorem dmaWrite_result (s : State) (a : Word) (v : Byte) : (s.dmaWrite a v).result = s.result := by
  unfold State.dmaWrite; split <;> rfl
@[simp] theorem dmaWrite_descs (s : State) (a : Word) (v : Byte) : (s.dmaWrite a v).descs = s.descs := by
  unfold State.dmaWrite; split <;> rfl
@[simp] theorem dmaWrite_slots (s : State) (a : Word) (v : Byte) : (s.dmaWrite a v).slots = s.slots := by
  unfold State.dmaWrite; split <;> rfl
@[simp] theorem dmaWrite_rr (s : State) (a : Word) (v : Byte) : (s.dmaWrite a v).rr = s.rr := by
  unfold State.dmaWrite; split <;> rfl
@[simp] theorem dmaWrite_chans (s : State) (a : Word) (v : Byte) : (s.dmaWrite a v).chans = s.chans := by
  unfold State.dmaWrite; split <;> rfl
@[simp] theorem dmaWrite_ctl (s : State) (a : Word) (v : Byte) : (s.dmaWrite a v).ctl = s.ctl := by
  unfold State.dmaWrite; split <;> rfl
@[simp] theorem dmaWrite_cache (s : State) (a : Word) (v : Byte) : (s.dmaWrite a v).cache = s.cache := by
  unfold State.dmaWrite; split <;> rfl
@[simp] theorem dmaWrite_hz (s : State) (a : Word) (v : Byte) : (s.dmaWrite a v).hz = s.hz := by
  unfold State.dmaWrite; split <;> rfl
@[simp] theorem dmaWrite_fault (s : State) (a : Word) (v : Byte) : (s.dmaWrite a v).fault = s.fault := by
  unfold State.dmaWrite; split <;> rfl
@[simp] theorem dmaWrite_refused (s : State) (a : Word) (v : Byte) : (s.dmaWrite a v).refused = s.refused := by
  unfold State.dmaWrite; split <;> rfl
@[simp] theorem dmaWrite_inputs (s : State) (a : Word) (v : Byte) : (s.dmaWrite a v).inputs = s.inputs := by
  unfold State.dmaWrite; split <;> rfl
@[simp] theorem dmaWrite_answers (s : State) (a : Word) (v : Byte) : (s.dmaWrite a v).answers = s.answers := by
  unfold State.dmaWrite; split <;> rfl
@[simp] theorem dmaWrite_drawNo (s : State) (a : Word) (v : Byte) : (s.dmaWrite a v).drawNo = s.drawNo := by
  unfold State.dmaWrite; split <;> rfl

/-! ### `askNack` -/

@[simp] theorem askNack_cfg (s : State) (b : Idx) : (s.askNack b).cfg = s.cfg := rfl
@[simp] theorem askNack_fg (s : State) (b : Idx) : (s.askNack b).fg = s.fg := rfl
@[simp] theorem askNack_result (s : State) (b : Idx) : (s.askNack b).result = s.result := rfl
@[simp] theorem askNack_descs (s : State) (b : Idx) : (s.askNack b).descs = s.descs := rfl
@[simp] theorem askNack_slots (s : State) (b : Idx) : (s.askNack b).slots = s.slots := rfl
@[simp] theorem askNack_rr (s : State) (b : Idx) : (s.askNack b).rr = s.rr := rfl
@[simp] theorem askNack_chans (s : State) (b : Idx) : (s.askNack b).chans = s.chans := rfl
@[simp] theorem askNack_ctl (s : State) (b : Idx) : (s.askNack b).ctl = s.ctl := rfl
@[simp] theorem askNack_mem (s : State) (b : Idx) : (s.askNack b).mem = s.mem := rfl
@[simp] theorem askNack_cache (s : State) (b : Idx) : (s.askNack b).cache = s.cache := rfl
@[simp] theorem askNack_hz (s : State) (b : Idx) : (s.askNack b).hz = s.hz := rfl
@[simp] theorem askNack_fault (s : State) (b : Idx) : (s.askNack b).fault = s.fault := rfl
@[simp] theorem askNack_refused (s : State) (b : Idx) : (s.askNack b).refused = s.refused := rfl
@[simp] theorem askNack_hist (s : State) (b : Idx) : (s.askNack b).hist = s.hist ++ [.cmd (.readNack b s.answerBit)] := rfl
@[simp] theorem askNack_inputs (s : State) (b : Idx) : (s.askNack b).inputs = s.inputs := rfl
@[simp] theorem askNack_answers (s : State) (b : Idx) : (s.askNack b).answers = s.answers.tail := rfl
@[simp] theorem askNack_drawNo (s : State) (b : Idx) : (s.askNack b).drawNo = s.drawNo + 1 := rfl

/-! ### `askByte` -/

@[simp] theorem askByte_cfg (s : State) (b : Idx) : (s.askByte b).cfg = s.cfg := rfl
@[simp] theorem askByte_fg (s : State) (b : Idx) : (s.askByte b).fg = s.fg := rfl
@[simp] theorem askByte_result (s : State) (b : Idx) : (s.askByte b).result = s.result := rfl
@[simp] theorem askByte_descs (s : State) (b : Idx) : (s.askByte b).descs = s.descs := rfl
@[simp] theorem askByte_slots (s : State) (b : Idx) : (s.askByte b).slots = s.slots := rfl
@[simp] theorem askByte_rr (s : State) (b : Idx) : (s.askByte b).rr = s.rr := rfl
@[simp] theorem askByte_chans (s : State) (b : Idx) : (s.askByte b).chans = s.chans := rfl
@[simp] theorem askByte_ctl (s : State) (b : Idx) : (s.askByte b).ctl = s.ctl := rfl
@[simp] theorem askByte_mem (s : State) (b : Idx) : (s.askByte b).mem = s.mem := rfl
@[simp] theorem askByte_cache (s : State) (b : Idx) : (s.askByte b).cache = s.cache := rfl
@[simp] theorem askByte_hz (s : State) (b : Idx) : (s.askByte b).hz = s.hz := rfl
@[simp] theorem askByte_fault (s : State) (b : Idx) : (s.askByte b).fault = s.fault := rfl
@[simp] theorem askByte_refused (s : State) (b : Idx) : (s.askByte b).refused = s.refused := rfl
@[simp] theorem askByte_hist (s : State) (b : Idx) : (s.askByte b).hist = s.hist ++ [.cmd (.readByte b s.answerByte)] := rfl
@[simp] theorem askByte_inputs (s : State) (b : Idx) : (s.askByte b).inputs = s.inputs := rfl
@[simp] theorem askByte_answers (s : State) (b : Idx) : (s.askByte b).answers = s.answers.tail := rfl
@[simp] theorem askByte_drawNo (s : State) (b : Idx) : (s.askByte b).drawNo = s.drawNo + 1 := rfl

/-! ### `askTxrdy` -/

@[simp] theorem askTxrdy_cfg (s : State) (b : Idx) (t : Word) : (s.askTxrdy b t).cfg = s.cfg := rfl
@[simp] theorem askTxrdy_fg (s : State) (b : Idx) (t : Word) : (s.askTxrdy b t).fg = s.fg := rfl
@[simp] theorem askTxrdy_result (s : State) (b : Idx) (t : Word) : (s.askTxrdy b t).result = s.result := rfl
@[simp] theorem askTxrdy_descs (s : State) (b : Idx) (t : Word) : (s.askTxrdy b t).descs = s.descs := rfl
@[simp] theorem askTxrdy_slots (s : State) (b : Idx) (t : Word) : (s.askTxrdy b t).slots = s.slots := rfl
@[simp] theorem askTxrdy_rr (s : State) (b : Idx) (t : Word) : (s.askTxrdy b t).rr = s.rr := rfl
@[simp] theorem askTxrdy_chans (s : State) (b : Idx) (t : Word) : (s.askTxrdy b t).chans = s.chans := rfl
@[simp] theorem askTxrdy_ctl (s : State) (b : Idx) (t : Word) : (s.askTxrdy b t).ctl = s.ctl := rfl
@[simp] theorem askTxrdy_mem (s : State) (b : Idx) (t : Word) : (s.askTxrdy b t).mem = s.mem := rfl
@[simp] theorem askTxrdy_cache (s : State) (b : Idx) (t : Word) : (s.askTxrdy b t).cache = s.cache := rfl
@[simp] theorem askTxrdy_hz (s : State) (b : Idx) (t : Word) : (s.askTxrdy b t).hz = s.hz := rfl
@[simp] theorem askTxrdy_fault (s : State) (b : Idx) (t : Word) : (s.askTxrdy b t).fault = s.fault := rfl
@[simp] theorem askTxrdy_refused (s : State) (b : Idx) (t : Word) : (s.askTxrdy b t).refused = s.refused := rfl
@[simp] theorem askTxrdy_hist (s : State) (b : Idx) (t : Word) : (s.askTxrdy b t).hist = s.hist ++ [.cmd (.waitTxrdy b t s.answerWait)] := rfl
@[simp] theorem askTxrdy_inputs (s : State) (b : Idx) (t : Word) : (s.askTxrdy b t).inputs = s.inputs := rfl
@[simp] theorem askTxrdy_answers (s : State) (b : Idx) (t : Word) : (s.askTxrdy b t).answers = s.answers.tail := rfl
@[simp] theorem askTxrdy_drawNo (s : State) (b : Idx) (t : Word) : (s.askTxrdy b t).drawNo = s.drawNo + 1 := rfl

/-! ### `askRxrdy` -/

@[simp] theorem askRxrdy_cfg (s : State) (b : Idx) (t : Word) : (s.askRxrdy b t).cfg = s.cfg := rfl
@[simp] theorem askRxrdy_fg (s : State) (b : Idx) (t : Word) : (s.askRxrdy b t).fg = s.fg := rfl
@[simp] theorem askRxrdy_result (s : State) (b : Idx) (t : Word) : (s.askRxrdy b t).result = s.result := rfl
@[simp] theorem askRxrdy_descs (s : State) (b : Idx) (t : Word) : (s.askRxrdy b t).descs = s.descs := rfl
@[simp] theorem askRxrdy_slots (s : State) (b : Idx) (t : Word) : (s.askRxrdy b t).slots = s.slots := rfl
@[simp] theorem askRxrdy_rr (s : State) (b : Idx) (t : Word) : (s.askRxrdy b t).rr = s.rr := rfl
@[simp] theorem askRxrdy_chans (s : State) (b : Idx) (t : Word) : (s.askRxrdy b t).chans = s.chans := rfl
@[simp] theorem askRxrdy_ctl (s : State) (b : Idx) (t : Word) : (s.askRxrdy b t).ctl = s.ctl := rfl
@[simp] theorem askRxrdy_mem (s : State) (b : Idx) (t : Word) : (s.askRxrdy b t).mem = s.mem := rfl
@[simp] theorem askRxrdy_cache (s : State) (b : Idx) (t : Word) : (s.askRxrdy b t).cache = s.cache := rfl
@[simp] theorem askRxrdy_hz (s : State) (b : Idx) (t : Word) : (s.askRxrdy b t).hz = s.hz := rfl
@[simp] theorem askRxrdy_fault (s : State) (b : Idx) (t : Word) : (s.askRxrdy b t).fault = s.fault := rfl
@[simp] theorem askRxrdy_refused (s : State) (b : Idx) (t : Word) : (s.askRxrdy b t).refused = s.refused := rfl
@[simp] theorem askRxrdy_hist (s : State) (b : Idx) (t : Word) : (s.askRxrdy b t).hist = s.hist ++ [.cmd (.waitRxrdy b t s.answerWait)] := rfl
@[simp] theorem askRxrdy_inputs (s : State) (b : Idx) (t : Word) : (s.askRxrdy b t).inputs = s.inputs := rfl
@[simp] theorem askRxrdy_answers (s : State) (b : Idx) (t : Word) : (s.askRxrdy b t).answers = s.answers.tail := rfl
@[simp] theorem askRxrdy_drawNo (s : State) (b : Idx) (t : Word) : (s.askRxrdy b t).drawNo = s.drawNo + 1 := rfl

/-! ### `askTxcomp` -/

@[simp] theorem askTxcomp_cfg (s : State) (b : Idx) (t : Word) : (s.askTxcomp b t).cfg = s.cfg := rfl
@[simp] theorem askTxcomp_fg (s : State) (b : Idx) (t : Word) : (s.askTxcomp b t).fg = s.fg := rfl
@[simp] theorem askTxcomp_result (s : State) (b : Idx) (t : Word) : (s.askTxcomp b t).result = s.result := rfl
@[simp] theorem askTxcomp_descs (s : State) (b : Idx) (t : Word) : (s.askTxcomp b t).descs = s.descs := rfl
@[simp] theorem askTxcomp_slots (s : State) (b : Idx) (t : Word) : (s.askTxcomp b t).slots = s.slots := rfl
@[simp] theorem askTxcomp_rr (s : State) (b : Idx) (t : Word) : (s.askTxcomp b t).rr = s.rr := rfl
@[simp] theorem askTxcomp_chans (s : State) (b : Idx) (t : Word) : (s.askTxcomp b t).chans = s.chans := rfl
@[simp] theorem askTxcomp_ctl (s : State) (b : Idx) (t : Word) : (s.askTxcomp b t).ctl = s.ctl := rfl
@[simp] theorem askTxcomp_mem (s : State) (b : Idx) (t : Word) : (s.askTxcomp b t).mem = s.mem := rfl
@[simp] theorem askTxcomp_cache (s : State) (b : Idx) (t : Word) : (s.askTxcomp b t).cache = s.cache := rfl
@[simp] theorem askTxcomp_hz (s : State) (b : Idx) (t : Word) : (s.askTxcomp b t).hz = s.hz := rfl
@[simp] theorem askTxcomp_fault (s : State) (b : Idx) (t : Word) : (s.askTxcomp b t).fault = s.fault := rfl
@[simp] theorem askTxcomp_refused (s : State) (b : Idx) (t : Word) : (s.askTxcomp b t).refused = s.refused := rfl
@[simp] theorem askTxcomp_hist (s : State) (b : Idx) (t : Word) : (s.askTxcomp b t).hist = s.hist ++ [.cmd (.waitTxcomp b t s.answerWait)] := rfl
@[simp] theorem askTxcomp_inputs (s : State) (b : Idx) (t : Word) : (s.askTxcomp b t).inputs = s.inputs := rfl
@[simp] theorem askTxcomp_answers (s : State) (b : Idx) (t : Word) : (s.askTxcomp b t).answers = s.answers.tail := rfl
@[simp] theorem askTxcomp_drawNo (s : State) (b : Idx) (t : Word) : (s.askTxcomp b t).drawNo = s.drawNo + 1 := rfl

/-! ### What the commands write -/

@[simp] theorem emit_hist (s : State) (c : Cmd) : (s.emit c).hist = s.hist ++ [.cmd c] := by simp [State.emit]

theorem cpuRead_hist_choice (s : State) (a : Word) :
    ∃ l, (s.cpuRead a).hist = s.hist ++ l ++ [.cpuRead a (s.cpuByte a)] := by
  unfold State.cpuRead State.allocate
  split
  · split
    · exact ⟨[.choice (s.answer % 2)], rfl⟩
    · exact ⟨[.choice (s.answer % 2)], rfl⟩
  · exact ⟨[], by simp⟩

end Sys2Proof.Machine
end

