-- ==== Sys2Proof/Laws/Cache.lean ====
section
/-! SUPPORT. The laws of the data cache: what the CPU sees after each operation, and that each keeps the canonical forms. -/

namespace Sys2Proof.Machine

/-! ### Lines -/

/-- The facts about the line size that `Config.wf` gives. -/
theorem Config.wf_line {cfg : Config} (h : cfg.wf = true) : 0 < cfg.cacheLine ∧ 2 ^ 32 % cfg.cacheLine = 0 := by
  simp only [Config.wf, Bool.and_eq_true, decide_eq_true_eq] at h
  exact h.2

theorem lineBase_le (cfg : Config) (a : Nat) : lineBase cfg a ≤ a := Nat.sub_le _ _

theorem lineBase_mod (cfg : Config) (a : Nat) : lineBase cfg a % cfg.cacheLine = 0 := by
  unfold lineBase
  exact Nat.sub_mod_eq_zero_of_mod_eq (by simp)

theorem lt_lineBase_add {cfg : Config} (h : 0 < cfg.cacheLine) (a : Nat) : a < lineBase cfg a + cfg.cacheLine := by
  unfold lineBase
  have := Nat.mod_lt a h
  have := Nat.mod_le a cfg.cacheLine
  omega

/-- The only aligned line an address lies in is its own. -/
theorem lineBase_unique {cfg : Config} {a la : Nat} (hm : la % cfg.cacheLine = 0) (h1 : la ≤ a)
    (h2 : a < la + cfg.cacheLine) : lineBase cfg a = la := by
  unfold lineBase
  obtain ⟨k, hk⟩ : ∃ k, a = la + k := ⟨a - la, by omega⟩
  subst hk
  have hlt : k < cfg.cacheLine := by omega
  rw [Nat.add_mod, hm, Nat.zero_add, Nat.mod_mod, Nat.mod_eq_of_lt hlt]
  omega

/-- A line inside the address space ends inside it. -/
theorem line_top {cfg : Config} (h : 2 ^ 32 % cfg.cacheLine = 0) {la : Nat}
    (hm : la % cfg.cacheLine = 0) (hl : la < 2 ^ 32) : la + cfg.cacheLine ≤ 2 ^ 32 := by
  obtain ⟨k, hk⟩ := Nat.dvd_of_mod_eq_zero hm
  obtain ⟨n, hn⟩ := Nat.dvd_of_mod_eq_zero h
  rw [hn] at hl ⊢
  rw [hk] at hl ⊢
  have : k < n := Nat.lt_of_mul_lt_mul_left hl
  calc cfg.cacheLine * k + cfg.cacheLine = cfg.cacheLine * (k + 1) := by ring
    _ ≤ cfg.cacheLine * n := Nat.mul_le_mul_left _ this

theorem readBytes_length (m : Memory) (a n : Nat) : (Memory.readBytes m a n).length = n := by simp [Memory.readBytes]

theorem readBytes_getD (m : Memory) (a n k : Nat) (d : Byte) (h : k < n) :
    (Memory.readBytes m a n).getD k d = Memory.read m (a + k) := by
  simp [Memory.readBytes, List.getD_eq_getElem?_getD, h]

/-! ### The canonical form of the cache -/

section CacheWf
variable {cfg : Config} {c : Cache}

theorem Cache.wf_iff : Cache.wf cfg c = true ↔
    assocSorted c = true ∧
    (∀ e ∈ c, e.1 < 2 ^ 32 ∧ e.1 % cfg.cacheLine = 0 ∧ e.2.data.length = cfg.cacheLine) ∧
    (cfg.dcacheEnabled = true ∨ c = []) := by
  simp [Cache.wf, List.isEmpty_iff, and_assoc]

theorem Cache.wf_put {la : Nat} {l : Line} (h : Cache.wf cfg c = true) (hd : cfg.dcacheEnabled = true)
    (h1 : la < 2 ^ 32) (h2 : la % cfg.cacheLine = 0) (h3 : l.data.length = cfg.cacheLine) :
    Cache.wf cfg (assocPut c la l) = true := by
  rw [Cache.wf_iff] at h ⊢
  refine ⟨assocSorted_put h.1, fun e he => ?_, .inl hd⟩
  rcases mem_assocPut he with rfl | he
  · exact ⟨h1, h2, h3⟩
  · exact h.2.1 e he

theorem Cache.wf_filter {p : Nat × Line → Bool} (h : Cache.wf cfg c = true) : Cache.wf cfg (c.filter p) = true := by
  rw [Cache.wf_iff] at h ⊢
  refine ⟨assocSorted_filter _ h.1, fun e he => h.2.1 e (List.mem_of_mem_filter he), ?_⟩
  rcases h.2.2 with h | h
  · exact .inl h
  · exact .inr (by simp [h])

theorem Cache.wf_map {g : Nat → Line → Line} (h : Cache.wf cfg c = true)
    (hg : ∀ k l, (g k l).data.length = l.data.length) : Cache.wf cfg (c.map (fun e => (e.1, g e.1 e.2))) = true := by
  rw [Cache.wf_iff] at h ⊢
  refine ⟨assocSorted_map (fun _ => rfl) h.1, fun e he => ?_, ?_⟩
  · obtain ⟨y, hy, rfl⟩ := List.mem_map.1 he
    have := h.2.1 y hy
    exact ⟨this.1, this.2.1, by rw [hg]; exact this.2.2⟩
  · rcases h.2.2 with h | h
    · exact .inl h
    · exact .inr (by simp [h])

theorem Cache.wf_nil : Cache.wf cfg [] = true := by simp [Cache.wf, assocSorted]

/-- Writing lines back keeps the memory's canonical form. -/
theorem wf_writeBack {m : Memory} {p : Nat → Bool} (hc : Cache.wf cfg c = true) (h : 2 ^ 32 % cfg.cacheLine = 0)
    (hm : Memory.wf m = true) : Memory.wf (writeBack p c m) = true := by
  rw [Cache.wf_iff] at hc
  have hall := hc.2.1
  clear hc
  induction c generalizing m with
  | nil => exact hm
  | cons e r ih =>
    unfold writeBack
    rw [List.foldl_cons]
    refine ih ?_ (fun x hx => hall x (List.mem_cons_of_mem _ hx))
    have := hall e List.mem_cons_self
    split
    · refine Memory.wf_writeBytes hm ?_
      rw [this.2.2]
      exact line_top h this.2.1 this.1
    · exact hm

/-- What `MEM` holds after a write-back: the data of the selected dirty line an address lies in, else what it held. -/
theorem read_writeBack {m : Memory} {p : Nat → Bool} (hc : Cache.wf cfg c = true) (h0 : 0 < cfg.cacheLine) (a : Nat) :
    Memory.read (writeBack p c m) a =
      match assocGet c (lineBase cfg a) with
      | some l =>
        if p (lineBase cfg a) && l.state == .dirty then l.data.getD (a - lineBase cfg a) (Memory.read m a)
        else Memory.read m a
      | none => Memory.read m a := by
  rw [Cache.wf_iff] at hc
  obtain ⟨hs, hall, -⟩ := hc
  induction c generalizing m with
  | nil => rfl
  | cons e r ih =>
    simp only [assocSorted, Bool.and_eq_true, List.all_eq_true, decide_eq_true_eq] at hs
    have he := hall e List.mem_cons_self
    have step : Memory.read (if p e.1 && e.2.state == .dirty then Memory.writeBytes m e.1 e.2.data else m) a =
        if e.1 = lineBase cfg a ∧ (p e.1 && e.2.state == .dirty) = true then
          e.2.data.getD (a - lineBase cfg a) (Memory.read m a) else Memory.read m a := by
      by_cases hp : (p e.1 && e.2.state == .dirty) = true
      · rw [if_pos hp, Memory.read_writeBytes, he.2.2]
        by_cases hin : e.1 ≤ a ∧ a < e.1 + cfg.cacheLine
        · have hb := lineBase_unique he.2.1 hin.1 hin.2
          rw [if_pos hin, if_pos ⟨hb.symm, hp⟩, hb]
        · rw [if_neg hin, if_neg]
          rintro ⟨hb, -⟩
          apply hin
          rw [hb]
          exact ⟨lineBase_le _ _, lt_lineBase_add h0 a⟩
      · rw [if_neg hp, if_neg (fun h => hp h.2)]
    unfold writeBack
    rw [List.foldl_cons]
    change Memory.read (writeBack p r _) a = _
    rw [ih hs.2 (fun x hx => hall x (List.mem_cons_of_mem _ hx)), step]
    by_cases hb : lineBase cfg a = e.1
    · have hn : assocGet r (lineBase cfg a) = none := assocGet_eq_none (fun x hx => by have := hs.1 x hx; omega)
      rw [hn]
      simp [assocGet, hb]
    · have hb' : ¬ e.1 = lineBase cfg a := fun h => hb h.symm
      simp only [assocGet, if_neg hb, hb', false_and, if_false]

end CacheWf

/-! ### What the CPU sees -/

/-- `cpuByte` reads the parameters, the cache and the memory only. -/
theorem cpuByte_congr {s t : State} (h1 : t.cfg = s.cfg) (h2 : t.cache = s.cache) (h3 : t.mem = s.mem) (a : Word) :
    t.cpuByte a = s.cpuByte a := by
  simp only [State.cpuByte, State.line?, h1, h2, h3]

theorem line?_congr {s t : State} (h1 : t.cfg = s.cfg) (h2 : t.cache = s.cache) (a : Nat) : t.line? a = s.line? a := by
  simp only [State.line?, h1, h2]

/-- What the CPU sees at an address whose line is absent is `MEM`'s byte. -/
theorem cpuByte_of_absent {s : State} {a : Word} (h : s.line? a.toNat = none) :
    s.cpuByte a = Memory.read s.mem a.toNat := by simp [State.cpuByte, h]

theorem line?_fillLine (s : State) (a b : Nat) (hd : s.cfg.dcacheEnabled = true) :
    (s.fillLine a).line? b =
      if lineBase s.cfg b = lineBase s.cfg a then
        some ⟨.clean, Memory.readBytes s.mem (lineBase s.cfg a) s.cfg.cacheLine⟩
      else s.line? b := by
  simp only [State.line?, fillLine_cfg, fillLine_cache, hd, if_true]
  split
  · rename_i h; rw [h]; simp
  · rename_i h; rw [assocGet_put_ne _ _ _ _ h]

/-- A fill of an absent line changes nothing the CPU sees (20_memory.md R66, R68). -/
theorem cpuByte_fillLine {s : State} {a : Nat} (h0 : 0 < s.cfg.cacheLine) (hd : s.cfg.dcacheEnabled = true)
    (ha : s.line? a = none) (b : Word) : (s.fillLine a).cpuByte b = s.cpuByte b := by
  unfold State.cpuByte
  rw [line?_fillLine _ _ _ hd]
  by_cases hb : lineBase s.cfg b.toNat = lineBase s.cfg a
  · have hn : s.line? b.toNat = none := by
      simp only [State.line?, hd, if_true] at ha ⊢
      rw [hb]; exact ha
    rw [if_pos hb, hn]
    have hlt := lt_lineBase_add h0 b.toNat
    have hle := lineBase_le s.cfg b.toNat
    have e : lineBase s.cfg a + (b.toNat - lineBase s.cfg a) = b.toNat := by omega
    simp only [fillLine_cfg, fillLine_mem, hb]
    rw [readBytes_getD _ _ _ _ _ (by omega), e]
  · rw [if_neg hb]; rfl

theorem cpuByte_allocate {s : State} (h0 : 0 < s.cfg.cacheLine) (a b : Word) :
    (s.allocate a).cpuByte b = s.cpuByte b := by
  unfold State.allocate
  split
  · rename_i h
    simp only [Bool.and_eq_true, Option.isNone_iff_eq_none] at h
    split
    · rw [cpuByte_fillLine (s := s.choose) h0 h.1 h.2]
      exact cpuByte_congr rfl rfl rfl b
    · exact cpuByte_congr rfl rfl rfl b
  · rfl

@[simp] theorem cpuByte_record (s : State) (e : Event) (b : Word) : (s.record e).cpuByte b = s.cpuByte b := rfl

theorem cpuByte_cpuRead {s : State} (h0 : 0 < s.cfg.cacheLine) (a b : Word) :
    (s.cpuRead a).cpuByte b = s.cpuByte b := by
  rw [State.cpuRead, cpuByte_record, cpuByte_allocate h0]

/-- A store changes what the CPU sees at its own address only (20_memory.md R67). -/
theorem cpuByte_store {s : State} (h0 : 0 < s.cfg.cacheLine) (hw : Cache.wf s.cfg s.cache = true) (a b : Word) (v : Byte) :
    (s.store a v).cpuByte b = if b = a then v else s.cpuByte b := by
  have hlt := lt_lineBase_add h0 a.toNat
  have hle := lineBase_le s.cfg a.toNat
  have hltb := lt_lineBase_add h0 b.toNat
  have hleb := lineBase_le s.cfg b.toNat
  unfold State.store
  cases hl : s.line? a.toNat with
  | none =>
    simp only
    by_cases hb : b = a
    · subst hb
      rw [if_pos rfl]
      have : ({ s with mem := Memory.write s.mem b.toNat v } : State).line? b.toNat = none := hl
      rw [cpuByte_of_absent this]
      exact Memory.read_write_same _ _ _
    · rw [if_neg hb]
      have hne : b.toNat ≠ a.toNat := fun h => hb (BitVec.eq_of_toNat_eq h)
      simp only [State.cpuByte, State.line?, Memory.read_write_ne _ _ _ _ hne]
  | some l =>
    have hd : s.cfg.dcacheEnabled = true := by
      by_contra h; simp [State.line?, h] at hl
    have hget : assocGet s.cache (lineBase s.cfg a.toNat) = some l := by simpa [State.line?, hd] using hl
    have hlen : l.data.length = s.cfg.cacheLine := ((Cache.wf_iff.1 hw).2.1 _ (mem_of_assocGet hget)).2.2
    simp only
    by_cases hline : lineBase s.cfg b.toNat = lineBase s.cfg a.toNat
    · have e1 : ({ s with cache := (assocPut s.cache (lineBase s.cfg a.toNat)
            ⟨.dirty, l.data.set (a.toNat - lineBase s.cfg a.toNat) v⟩) } : State).line? b.toNat =
          some ⟨.dirty, l.data.set (a.toNat - lineBase s.cfg a.toNat) v⟩ := by
        simp [State.line?, hd, hline]
      have e2 : s.line? b.toNat = some l := by simp [State.line?, hd, hline, hget]
      simp only [State.cpuByte, e1, e2, List.getD_eq_getElem?_getD, List.getElem?_set]
      by_cases hb : b = a
      · subst hb
        rw [if_pos rfl, if_pos rfl, if_pos (by omega)]
        rfl
      · have hne : b.toNat ≠ a.toNat := fun h => hb (BitVec.eq_of_toNat_eq h)
        rw [if_neg hb, if_neg (by omega)]
    · have hne : b ≠ a := fun h => hline (by rw [h])
      have e1 : ({ s with cache := (assocPut s.cache (lineBase s.cfg a.toNat)
            ⟨.dirty, l.data.set (a.toNat - lineBase s.cfg a.toNat) v⟩) } : State).line? b.toNat = s.line? b.toNat := by
        simp only [State.line?, hd, if_true]
        rw [assocGet_put_ne _ _ _ _ hline]
      rw [if_neg hne]
      simp only [State.cpuByte, e1]

/-! ### The canonical forms are kept -/

theorem memOk_congr {s t : State} (h1 : t.cfg = s.cfg) (h2 : t.cache = s.cache) (h3 : t.mem = s.mem) (h : s.memOk) :
    t.memOk := by simpa [State.memOk, h1, h2, h3] using h

/-- A change of neither the parameters, the memory nor the cache keeps the canonical forms. -/
theorem memOk_of_eq {s t : State} (h : s.memOk) (h1 : t.cfg = s.cfg) (h2 : t.mem = s.mem) (h3 : t.cache = s.cache) :
    t.memOk := memOk_congr h1 h3 h2 h

theorem lineBase_lt {cfg : Config} {a : Nat} (h : a < 2 ^ 32) : lineBase cfg a < 2 ^ 32 :=
  lt_of_le_of_lt (lineBase_le _ _) h

theorem memOk_fillLine {s : State} (hd : s.cfg.dcacheEnabled = true) {a : Nat} (ha : a < 2 ^ 32) (h : s.memOk) :
    (s.fillLine a).memOk :=
  ⟨h.1, Cache.wf_put h.2 hd (lineBase_lt ha) (lineBase_mod _ _) (readBytes_length _ _ _)⟩

theorem memOk_allocate {s : State} (a : Word) (h : s.memOk) : (s.allocate a).memOk := by
  unfold State.allocate
  split
  · rename_i hc
    simp only [Bool.and_eq_true] at hc
    have hch : s.choose.memOk := h
    split
    · exact memOk_fillLine hc.1 a.isLt hch
    · exact hch
  · exact h

theorem memOk_store {s : State} (a : Word) (v : Byte) (h : s.memOk) : (s.store a v).memOk := by
  unfold State.store
  cases hl : s.line? a.toNat with
  | none => exact ⟨Memory.wf_write h.1 a.isLt, h.2⟩
  | some l =>
    have hd : s.cfg.dcacheEnabled = true := by
      by_contra hd; simp [State.line?, hd] at hl
    have hget : assocGet s.cache (lineBase s.cfg a.toNat) = some l := by simpa [State.line?, hd] using hl
    have := (Cache.wf_iff.1 h.2).2.1 _ (mem_of_assocGet hget)
    exact ⟨h.1, Cache.wf_put h.2 hd this.1 this.2.1 (by simpa using this.2.2)⟩

theorem memOk_cpuRead {s : State} (a : Word) (h : s.memOk) : (s.cpuRead a).memOk :=
  memOk_congr rfl rfl rfl (memOk_allocate a h)

theorem memOk_cpuWrite {s : State} (a : Word) (v : Byte) (h : s.memOk) : (s.cpuWrite a v).memOk :=
  memOk_congr rfl rfl rfl (memOk_store a v (memOk_allocate a h))

theorem cpuByte_cpuWrite {s : State} (h0 : 0 < s.cfg.cacheLine) (h : s.memOk) (a b : Word) (v : Byte) :
    (s.cpuWrite a v).cpuByte b = if b = a then v else s.cpuByte b := by
  rw [State.cpuWrite, cpuByte_record, cpuByte_store (by simpa using h0) (memOk_allocate a h).2, cpuByte_allocate h0]

theorem memOk_cleanRange {s : State} (hc : 0 < s.cfg.cacheLine ∧ 2 ^ 32 % s.cfg.cacheLine = 0) (a n : Word)
    (h : s.memOk) : (s.cleanRange a n).memOk := by
  unfold State.cleanRange
  split
  · refine ⟨wf_writeBack h.2 hc.2 h.1, ?_⟩
    have := Cache.wf_map (g := fun k l => if meets s.cfg a.toNat n.toNat k then { l with state := .clean } else l) h.2
      (by intro k l; split <;> rfl)
    convert this using 3
    funext e
    split <;> rfl
  · exact h

theorem memOk_invalidateRange {s : State} (a n : Word) (h : s.memOk) : (s.invalidateRange a n).memOk := by
  unfold State.invalidateRange
  split
  · exact ⟨h.1, Cache.wf_filter h.2⟩
  · exact h

theorem memOk_evictLine {s : State} (hc : 0 < s.cfg.cacheLine ∧ 2 ^ 32 % s.cfg.cacheLine = 0) (a : Nat) (h : s.memOk) :
    (s.evictLine a).memOk := by
  refine ⟨wf_writeBack (p := fun b => b == lineBase s.cfg a) h.2 hc.2 h.1, ?_⟩
  exact Cache.wf_filter h.2

theorem memOk_dmaWrite {s : State} (a : Word) (v : Byte) (h : s.memOk) : (s.dmaWrite a v).memOk := by
  unfold State.dmaWrite
  split
  · exact h
  · exact ⟨Memory.wf_write h.1 a.isLt, h.2⟩

theorem memOk_emit {s : State} (hc : 0 < s.cfg.cacheLine ∧ 2 ^ 32 % s.cfg.cacheLine = 0) (c : Cmd) (h : s.memOk) :
    (s.emit c).memOk := by
  have hr : (s.record (.cmd c)).memOk := h
  cases c <;> first
    | exact hr
    | exact memOk_cleanRange (s := s.record _) hc _ _ hr
    | exact memOk_invalidateRange (s := s.record _) _ _ hr

theorem memOk_invokeCallback {s : State} (cb : Callback) (d : Idx) (args : Word) (h : s.memOk) :
    (s.invokeCallback cb d args).memOk := by
  unfold State.invokeCallback
  split
  · exact h
  · exact h
  · split <;> exact h

end Sys2Proof.Machine
end

