-- ==== Sys2Proof/Laws/Tables.lean ====
section
/-! SUPPORT. Reading the tables after a write of one entry. -/

namespace Sys2Proof.Machine

/-! ### `List.modify` -/

section Modify
variable {α : Type} {l : List α} {n : Nat} {f g : α → α}

/-- A change that leaves the entry as it is leaves the list. -/
theorem modify_eq_self (h : ∀ a, l[n]? = some a → f a = a) : l.modify n f = l := by
  apply List.ext_getElem?
  intro i
  rw [List.getElem?_modify]
  split
  · rename_i e; subst e
    cases hq : l[n]? with
    | none => rfl
    | some a => simp [h a hq]
  · cases l[i]? <;> rfl

theorem modify_congr (h : ∀ a, l[n]? = some a → f a = g a) : l.modify n f = l.modify n g := by
  apply List.ext_getElem?
  intro i
  simp only [List.getElem?_modify]
  split
  · rename_i e; subst e
    cases hq : l[n]? with
    | none => rfl
    | some a => simp [h a hq]
  · rfl

theorem modify_modify (l : List α) (n : Nat) (f g : α → α) : (l.modify n f).modify n g = l.modify n (g ∘ f) := by
  apply List.ext_getElem?
  intro i
  simp only [List.getElem?_modify]
  split <;> cases l[i]? <;> simp

/-- A change of one entry as a replacement of it. -/
theorem modify_eq_set {a : α} (h : l[n]? = some a) : l.modify n f = l.set n (f a) := by
  apply List.ext_getElem?
  intro i
  rw [List.getElem?_modify, List.getElem?_set]
  split
  · rename_i e; subst e; simpa [h] using (List.getElem?_eq_some_iff.1 h).1
  · cases l[i]? <;> rfl

theorem mem_modify {x : α} (h : x ∈ l.modify n f) : x ∈ l ∨ ∃ a, l[n]? = some a ∧ x = f a := by
  obtain ⟨i, hi⟩ := List.mem_iff_getElem?.1 h
  rw [List.getElem?_modify] at hi
  split at hi
  · rename_i e; subst e
    cases hq : l[n]? with
    | none => simp [hq] at hi
    | some a => simp [hq] at hi; exact .inr ⟨a, rfl, hi.symm⟩
  · cases hq : l[i]? with
    | none => simp [hq] at hi
    | some a => simp [hq] at hi; exact .inl (hi ▸ List.mem_of_getElem? hq)

end Modify

/-! ### Descriptors -/

theorem desc_of_getElem? {s : State} {d : Idx} {e : Desc} (h : s.descs[d.toNat]? = some e) : s.desc d = e := by
  simp [State.desc, List.getD_eq_getElem?_getD, h]

theorem desc_of_lt {s : State} {d : Idx} (h : d.toNat < s.descs.length) : s.descs[d.toNat]? = some (s.desc d) := by
  simp [State.desc, List.getD_eq_getElem?_getD, h]

theorem desc_congr {s t : State} (h : t.descs = s.descs) (d : Idx) : t.desc d = s.desc d := by simp [State.desc, h]

theorem desc_modifyDesc_same {s : State} {d : Idx} (f : Desc → Desc) (h : d.toNat < s.descs.length) :
    (s.modifyDesc d f).desc d = f (s.desc d) := by
  apply desc_of_getElem?
  simp [desc_of_lt h]

theorem desc_modifyDesc_ne {s : State} {d d' : Idx} (f : Desc → Desc) (h : d' ≠ d) :
    (s.modifyDesc d f).desc d' = s.desc d' := by
  have hn : d.toNat ≠ d'.toNat := fun e => h (BitVec.eq_of_toNat_eq e.symm)
  simp [State.desc, List.getD_eq_getElem?_getD, hn]

/-- A change that keeps what `g` reads keeps it in every descriptor. -/
theorem desc_modifyDesc_field {β : Type} (s : State) (d d' : Idx) {f : Desc → Desc} (g : Desc → β) (h : ∀ e, g (f e) = g e) :
    g ((s.modifyDesc d f).desc d') = g (s.desc d') := by
  by_cases hd : d' = d
  · subst hd
    by_cases hl : d'.toNat < s.descs.length
    · rw [desc_modifyDesc_same f hl, h]
    · simp [State.desc, List.getD_eq_getElem?_getD, hl]
  · rw [desc_modifyDesc_ne f hd]

/-- After an unlock the lock is free. -/
@[simp] theorem desc_unlock_lock (s : State) (d : Idx) : ((s.unlock d).desc d).lock = false := by
  by_cases hl : d.toNat < s.descs.length
  · rw [State.unlock, desc_modifyDesc_same _ hl]
  · simp [State.unlock, State.desc, List.getD_eq_getElem?_getD, hl, Desc.launch]

/-- A held lock stands in the table. -/
theorem lt_of_lock {s : State} {d : Idx} (h : (s.desc d).lock = true) : d.toNat < s.descs.length := by
  by_contra hl
  simp [State.desc, List.getD_eq_getElem?_getD, hl, Desc.launch] at h

/-- Unlocking a free lock changes nothing (10_state.md R25). -/
theorem unlock_of_free {s : State} {d : Idx} (h : (s.desc d).lock = false) : s.unlock d = s := by
  have : s.descs.modify d.toNat (fun e => { e with lock := false }) = s.descs := by
    apply modify_eq_self
    intro a ha
    rw [desc_of_getElem? ha] at h
    cases a; simp_all
  simp [State.unlock, State.modifyDesc, this]

/-- What the checks of 41_dispatch.md R141 read. -/
theorem descOk_congr {s t : State} (d : Idx) (h0 : t.cfg = s.cfg) (h1 : (t.desc d).bus = (s.desc d).bus)
    (h2 : (t.desc d).slave = (s.desc d).slave) (h3 : (t.desc d).iaddr = (s.desc d).iaddr)
    (h4 : (t.desc d).isize = (s.desc d).isize) : t.descOk d = s.descOk d := by
  simp [State.descOk, h0, h1, h2, h3, h4]

/-! ### Slots -/

theorem slot_of_getElem? {s : State} {k : Nat} {y : Slot} (h : s.slots[k]? = some y) : s.slot k = y := by
  simp [State.slot, List.getD_eq_getElem?_getD, h]

theorem slot_modifySlot_of_getElem? {s : State} {k : Nat} {y : Slot} (f : Slot → Slot) (h : s.slots[k]? = some y) :
    (s.modifySlot k f).slots = s.slots.set k (f y) := by
  simp [modify_eq_set h]

/-- The matched slot is the lowest bound one (43_async.md R197). -/
theorem matchSlot_of_lowest {s : State} {p : Idx} {k : Nat} {y : Slot} (h : s.lowestBound p k y) :
    s.matchSlot p = some k := by
  obtain ⟨h1, h2, h3⟩ := h
  obtain ⟨hk, hy⟩ := List.getElem?_eq_some_iff.1 h1
  rw [State.matchSlot, List.findIdx?_eq_some_iff_getElem]
  refine ⟨hk, by simp [hy, h2], fun j hj => ?_⟩
  have := h3 j _ hj (List.getElem?_eq_getElem (by omega))
  simpa using this

/-- With no bound slot nothing is matched (43_async.md R205). -/
theorem matchSlot_of_unbound {s : State} {p : Idx} (h : s.unbound p) : s.matchSlot p = none := by
  rw [State.matchSlot, List.findIdx?_eq_none_iff]
  intro y hy
  simpa using h y hy

theorem lowest_of_matchSlot {s : State} {p : Idx} {k : Nat} (h : s.matchSlot p = some k) :
    s.lowestBound p k (s.slot k) := by
  rw [State.matchSlot, List.findIdx?_eq_some_iff_getElem] at h
  obtain ⟨hk, h1, h2⟩ := h
  refine ⟨by simp [State.slot, List.getD_eq_getElem?_getD, hk], ?_, fun j z hj hz => ?_⟩
  · simpa [State.slot, List.getD_eq_getElem?_getD, hk] using h1
  · obtain ⟨hj', rfl⟩ := List.getElem?_eq_some_iff.1 hz
    simpa using h2 j hj

theorem unbound_of_matchSlot {s : State} {p : Idx} (h : s.matchSlot p = none) : s.unbound p := by
  rw [State.matchSlot, List.findIdx?_eq_none_iff] at h
  intro y hy
  simpa using h y hy

/-! ### Channels and controllers -/

theorem chan_of_lt {s : State} {c : Idx} (h : c.toNat < s.chans.length) : s.chans[c.toNat]? = some (s.chan c) := by
  simp [State.chan, List.getD_eq_getElem?_getD, h]

theorem chan_of_getElem? {s : State} {c : Idx} {y : Chan} (h : s.chans[c.toNat]? = some y) : s.chan c = y := by
  simp [State.chan, List.getD_eq_getElem?_getD, h]

theorem chan_congr {s t : State} (h : t.chans = s.chans) (c : Idx) : t.chan c = s.chan c := by simp [State.chan, h]

theorem chan_modifyChan_same {s : State} {c : Idx} (f : Chan → Chan) (h : c.toNat < s.chans.length) :
    (s.modifyChan c f).chan c = f (s.chan c) := by
  apply chan_of_getElem?
  simp [chan_of_lt h]

theorem chan_modifyChan_ne {s : State} {c c' : Idx} (f : Chan → Chan) (h : c' ≠ c) :
    (s.modifyChan c f).chan c' = s.chan c' := by
  have hn : c.toNat ≠ c'.toNat := fun e => h (BitVec.eq_of_toNat_eq e.symm)
  simp [State.chan, List.getD_eq_getElem?_getD, hn]

/-- `bus_of(BUSES[b].pid) = b` for a bus of the list (43_async.md R205; pids are distinct, 00_scope.md R7). -/
theorem busOf_pid {cfg : Config} (h : cfg.wf = true) {b : Idx} (hb : b.toNat < cfg.buses.length) :
    Config.busOf cfg (Config.pid cfg b) = b := by
  simp only [Config.wf, Bool.and_eq_true, decide_eq_true_eq] at h
  obtain ⟨⟨⟨⟨⟨⟨⟨_, _⟩, hn⟩, _⟩, _⟩, _⟩, _⟩, _⟩ := h
  unfold Config.busOf Config.pid Config.bus
  have e : cfg.buses.getD b.toNat ⟨0, 0, false, 0, 0, 0⟩ = cfg.buses[b.toNat] := by
    simp [List.getD_eq_getElem?_getD, hb]
  rw [e]
  have : cfg.buses.findIdx (fun z => z.pid == cfg.buses[b.toNat].pid) = b.toNat := by
    rw [List.findIdx_eq hb]
    refine ⟨by simp, fun j hj => ?_⟩
    by_contra hc
    simp at hc
    have := hn
    rw [List.nodup_iff_injective_getElem] at this
    have := @this ⟨j, by simp; omega⟩ ⟨b.toNat, by simpa using hb⟩ (by simpa using hc)
    simp at this
    omega
  rw [this]
  simp

/-- A buffer of at least one byte inside the address space ends `len` past its start, as `bufEnd` reads the bounds R193 binds. -/
theorem bufEnd_of_bounds {y : Slot} {buf len : Word} (hlo : y.bufLo = buf) (hhi : y.bufHi = buf + len) (hlen : len ≠ 0)
    (htop : buf.toNat + len.toNat ≤ 2 ^ 32) : y.bufEnd = buf.toNat + len.toNat := by
  have hb := buf.isLt
  have hl := len.isLt
  have hn : len.toNat ≠ 0 := fun h => hlen (BitVec.eq_of_toNat_eq h)
  have hsum : (buf + len).toNat = (buf.toNat + len.toNat) % 2 ^ 32 := BitVec.toNat_add _ _
  unfold Slot.bufEnd
  rw [hlo, hhi]
  split
  · rename_i h
    rw [h.1] at hsum
    simp at hsum
    omega
  · rename_i h
    by_cases hz : buf + len = 0
    · have : buf = 0 := by by_contra hne; exact h ⟨hz, hne⟩
      subst this
      simp at hz
      exact absurd hz hlen
    · have : (buf + len).toNat ≠ 0 := fun h0 => hz (BitVec.eq_of_toNat_eq h0)
      omega

end Sys2Proof.Machine
end

