-- ==== Sys2Proof/Laws/Exec.lean ====
section
/-! SUPPORT. What one `exec` and one `step` can do, said once: the micro-steps of the foreground operations by label, and the
inversion of a step. -/

namespace Sys2Proof.Machine

/-- The micro-step of SUBMIT at a label; `c5` and `w1` are none of its. -/
def submitMicro (rx tx : Option Buffer) (cb : Callback) (args : Word) (op : Instr) (x : Locals) (s : State) : Label → State
  | .s1 => submitS1 cb args op x s
  | .s2 => submitS2 op x s
  | .s3 => submitS3 rx tx op x s
  | .s4 => submitS4 op x s
  | .s5 => submitS5 op x s
  | .s6 => submitS6 op x s
  | .s9 => submitS9 x s
  | .pw1 => pollW1 op x s
  | .pw2 => pollW2 op x s
  | .pw3 => pollW3 op x s
  | .pw4 => pollW4 op x s
  | .pw5 => pollW5 op x s
  | .pw6 => pollW6 op x s
  | .pw7 => pollW7 op x s
  | .pw8 => pollW8 op x s
  | .pw9 => pollW9 op x s
  | .pw10 => pollW10 op x s
  | .pw11 => pollW11 op x s
  | .pr1 => pollR1 op x s
  | .pr2 => pollR2 op x s
  | .pr3 => pollR3 op x s
  | .pr4 => pollR4 op x s
  | .pr5 => pollR5 op x s
  | .pr6 => pollR6 op x s
  | .pr7 => pollR7 op x s
  | .pr8 => pollR8 op x s
  | .pr9 => pollR9 op x s
  | .pr10 => pollR10 op x s
  | .a1 => asyncA1 op x s
  | .a2 => asyncA2 op x s
  | .a3 => asyncA3 op x s
  | .a4w => asyncA4w op x s
  | .a5w => asyncA5w op x s
  | .a4r => asyncA4r op x s
  | .a5r => asyncA5r op x s
  | .a6 => asyncA6 op x s
  | .mw1 => dmaM1 .mw2 op x s
  | .mw2 => dmaM2 .mw3 op x s
  | .mw3 => dmaM3w op x s
  | .mw4 => dmaM4 .mw5 op x s
  | .mw5 => dmaM5 .mw6 op x s
  | .mw6 => dmaStartStep .mw7 op x s
  | .mw7 => dmaReturn op x s
  | .mr1 => dmaM1 .mr2 op x s
  | .mr2 => dmaM2 .mr3 op x s
  | .mr3 => dmaM3r op x s
  | .mr4 => dmaM4 .mr5 op x s
  | .mr5 => dmaM5 .mr6 op x s
  | .mr6 => dmaM6r op x s
  | .mr7 => dmaStartStep .mr8 op x s
  | .mr8 => dmaReturn op x s
  | .f1 => fifoF1 op x s
  | .f2 => fifoF2 op x s
  | .f3 => fifoF3 op x s
  | .f4 => fifoF4 op x s
  | .c1 => configC1 op x s
  | .c2 => configC2 op x s
  | .c3 => configC3 op x s
  | .c4 => configC4 .s9 op x s
  | .c5 => s
  | .w1 => s

/-- SUBMIT is issued. -/
theorem exec_submit_idle {s : State} (h : s.fg = .idle) (d : Idx) (rx tx : Option Buffer) (cb : Callback) (args : Word) :
    exec (.submit d rx tx cb args) s = .next (submitS0 (.submit d rx tx cb args) d s) := by
  simp [exec, execSubmit, h]

/-- SUBMIT stands at a micro-step. -/
theorem exec_submit_busy {s : State} {d : Idx} {rx tx : Option Buffer} {cb : Callback} {args : Word} {l : Label} {x : Locals}
    (h : s.fg = .busy (.submit d rx tx cb args) l x) (h5 : l ≠ .c5) (h1 : l ≠ .w1) :
    exec (.submit d rx tx cb args) s = .next (submitMicro rx tx cb args (.submit d rx tx cb args) x s l) := by
  cases l <;> first | exact absurd rfl h5 | exact absurd rfl h1 | simp [exec, execSubmit, h, submitMicro]

/-- What a SUBMIT can do in one `exec`. -/
theorem exec_submit_cases {s t : State} {d : Idx} {rx tx : Option Buffer} {cb : Callback} {args : Word}
    (h : exec (.submit d rx tx cb args) s = .next t) :
    (s.fg = .idle ∧ t = submitS0 (.submit d rx tx cb args) d s) ∨
    ∃ l x, s.fg = .busy (.submit d rx tx cb args) l x ∧ l ≠ .c5 ∧ l ≠ .w1 ∧
      t = submitMicro rx tx cb args (.submit d rx tx cb args) x s l := by
  cases hf : s.fg with
  | idle =>
    rw [exec_submit_idle hf] at h
    cases h
    exact .inl ⟨rfl, rfl⟩
  | busy op l x =>
    by_cases ho : op = .submit d rx tx cb args
    · subst ho
      by_cases h5 : l = .c5
      · subst h5; simp [exec, execSubmit, hf] at h
      by_cases h1 : l = .w1
      · subst h1; simp [exec, execSubmit, hf] at h
      rw [exec_submit_busy hf h5 h1] at h
      cases h
      exact .inr ⟨l, x, rfl, h5, h1, rfl⟩
    · simp [exec, execSubmit, hf, ho] at h

/-- What a CONFIGURE can do in one `exec`. -/
theorem exec_configure_cases {s t : State} {d : Idx} (h : exec (.configure d) s = .next t) :
    (s.fg = .idle ∧ t = configC0 d s) ∨
    ∃ l x, s.fg = .busy (.configure d) l x ∧
      ((l = .c1 ∧ t = configC1 (.configure d) x s) ∨ (l = .c2 ∧ t = configC2 (.configure d) x s) ∨
       (l = .c3 ∧ t = configC3 (.configure d) x s) ∨ (l = .c4 ∧ t = configC4 .c5 (.configure d) x s) ∨
       (l = .c5 ∧ t = configC5 s)) := by
  cases hf : s.fg with
  | idle => simp [exec, execConfigure, hf] at h; exact .inl ⟨rfl, h.symm⟩
  | busy op l x =>
    by_cases ho : op = .configure d
    · subst ho
      refine .inr ⟨l, x, rfl, ?_⟩
      cases l <;> simp [exec, execConfigure, hf] at h <;> simp [h]
    · simp [exec, execConfigure, hf, ho] at h

theorem exec_isBusy_cases {s t : State} {d : Idx} (h : exec (.isBusy d) s = .next t) :
    s.fg = .idle ∧ t = s.finish .isBusy (some (boolWord (s.desc d).lock)) := by
  cases hf : s.fg <;> simp [exec, execIsBusy, hf] at h
  exact ⟨rfl, h.symm⟩

theorem exec_waitUntilIdle_cases {s t : State} {d : Idx} (h : exec (.waitUntilIdle d) s = .next t) :
    (s.fg = .idle ∧ t = waitW1 d (Locals.init d) s) ∨ ∃ x, s.fg = .busy (.waitUntilIdle d) .w1 x ∧ t = waitW1 d x s := by
  cases hf : s.fg with
  | idle => simp [exec, execWaitUntilIdle, hf] at h; exact .inl ⟨rfl, h.symm⟩
  | busy op l x =>
    by_cases ho : op = .waitUntilIdle d ∧ l = .w1
    · obtain ⟨rfl, rfl⟩ := ho
      simp [exec, execWaitUntilIdle, hf] at h
      exact .inr ⟨x, rfl, h.symm⟩
    · simp [exec, execWaitUntilIdle, hf, ho] at h

theorem exec_defaultCallback_cases {s t : State} {d : Idx} (h : exec (.defaultCallback d) s = .next t) :
    s.fg = .idle ∧ t = (s.unlock d).finish .defaultCallback none := by
  cases hf : s.fg <;> simp [exec, execDefaultCallback, hf] at h
  exact ⟨rfl, h.symm⟩

theorem exec_irqRxrdy (s : State) (p : Idx) :
    exec (.irqRxrdy p) s = .next (match s.matchSlot p with | some k => rxrdyMatched k s | none => unmatchedIrq p s) := by
  cases h : s.matchSlot p <;> simp [exec, execIrqRxrdy, h]

theorem exec_irqTxrdy (s : State) (p : Idx) :
    exec (.irqTxrdy p) s = .next (match s.matchSlot p with | some k => txrdyMatched k s | none => unmatchedIrq p s) := by
  cases h : s.matchSlot p <;> simp [exec, execIrqTxrdy, h]

theorem exec_irqTxcomp (s : State) (p : Idx) :
    exec (.irqTxcomp p) s = .next (match s.matchSlot p with | some k => txcompMatched p k s | none => unmatchedIrq p s) := by
  cases h : s.matchSlot p <;> simp [exec, execIrqTxcomp, h]

theorem exec_irqNone (s : State) (p : Idx) :
    exec (.irqNone p) s = .next (match s.matchSlot p with | some _ => s | none => unmatchedIrq p s) := by
  cases h : s.matchSlot p <;> simp [exec, execIrqNone, h]

theorem exec_dmaDone (s : State) (c : Idx) : exec (.dmaDone c) s = .next (doneStep c s) := rfl

/-! ### Runs -/

@[simp] theorem runOp_zero (i : Instr) (s : State) : runOp i 0 s = .next s := rfl

theorem runOp_succ {i : Instr} {s t : State} (h : exec i s = .next t) (n : Nat) : runOp i (n + 1) s = runOp i n t := by
  simp [runOp, h]

theorem runOp_add {i : Instr} {s t : State} {m : Nat} (h : runOp i m s = .next t) (n : Nat) :
    runOp i (m + n) s = runOp i n t := by
  induction m generalizing s with
  | zero => simp at h; simp [h]
  | succ m ih =>
    rw [Nat.add_right_comm]
    cases he : exec i s with
    | next u => rw [runOp_succ he] at h ⊢; exact ih h
    | fault f => simp [runOp, he] at h
    | refused r => simp [runOp, he] at h

/-! ### Steps -/

/-- What one step can do: an `exec` of the operation in progress, or of a decoded command that may be issued, on the state with its input
used up and an event in the history; a refused command; an input used up; or the turn of an agent outside the block. -/
inductive StepKind (s s0 t : State) : Prop where
  | foreground (op : Instr) (l : Label) (x : Locals) (hf : s.fg = .busy op l x) (h : exec op s0 = .next t)
  | command (ws : List Word) (more : List Input) (i : Instr) (rest : List Word) (hi : s.inputs = .command ws :: more)
      (hd : decode s.cfg ws = .ok (i, rest)) (hm : s.mayIssue i = true) (h : exec i (s0.drawEvent i) = .next t)
  | refused (r : Refusal) (h : t = s0.refuse r)
  | rest (h : t = s0)
  | dmaByte (c : Idx) (more : List Input) (hi : s.inputs = .dmaByte c :: more) (h : t = dmaByteStep c s0)
  | fill (a : Word) (more : List Input) (hi : s.inputs = .fill a :: more) (h : t = envFill a s0)
  | evict (a : Word) (more : List Input) (hi : s.inputs = .evict a :: more) (h : t = envEvict a s0)
  | hostDesc (d : Idx) (hd : HostDesc) (hf : s.fg = .idle) (h : t = hostWriteDesc d hd s0)
  | hostRead (a : Word) (more : List Input) (hi : s.inputs = .hostRead a :: more) (h : t = s0.cpuRead a)
  | hostWrite (a : Word) (v : Byte) (more : List Input) (hi : s.inputs = .hostWrite a v :: more) (h : t = s0.cpuWrite a v)

theorem foregroundTurn_cases {s s0 t : State} (hf : s0.fg = s.fg) (h : foregroundTurn s0 = .next t) : StepKind s s0 t := by
  unfold foregroundTurn at h
  cases hq : s0.fg with
  | idle => rw [hq] at h; cases h; exact .rest rfl
  | busy op l x => rw [hq] at h; exact .foreground op l x (hf ▸ hq) h

theorem mayIssue_inputs (s : State) (l : List Input) (i : Instr) : ({ s with inputs := l } : State).mayIssue i = s.mayIssue i := by
  cases i <;> rfl

/-- The inversion of a step: the marks are clear, and for some state that differs from it in the input only, one of the kinds. -/
theorem step_cases {s t : State} (h : step s = .next t) :
    s.fault = none ∧ s.refused = none ∧ ∃ l, StepKind s { s with inputs := l } t := by
  have hf : s.fault = none := by
    cases hq : s.fault with
    | none => rfl
    | some f => simp [step, hq] at h
  have hr : s.refused = none := by
    cases hq : s.refused with
    | none => rfl
    | some r => simp [step, hf, hq] at h
  refine ⟨hf, hr, ?_⟩
  simp only [step, hf, hr] at h
  cases hi : s.inputs with
  | nil =>
    simp only [hi] at h
    exact ⟨s.inputs, foregroundTurn_cases rfl h⟩
  | cons i more =>
    rw [hi] at h
    have pop : s.popInput = { s with inputs := more } := by simp [State.popInput, hi]
    cases i with
    | command ws =>
      simp only [commandTurn] at h
      split at h
      · cases h; exact ⟨more, .rest pop⟩
      · split at h
        · exact ⟨s.inputs, foregroundTurn_cases rfl h⟩
        · cases hd : decode s.cfg ws with
          | error r => rw [hd] at h; cases h; exact ⟨more, .refused _ (by rw [pop])⟩
          | ok q =>
            obtain ⟨i, rest⟩ := q
            rw [hd] at h
            have ha : s.afterFetch rest =
                { s with inputs := if rest = [] then more else .command rest :: more } := by
              unfold State.afterFetch
              split <;> simp [pop, hi]
            simp only [ha] at h
            split at h
            · rename_i hm
              exact ⟨_, .command ws more i rest hi hd hm h⟩
            · cases h; exact ⟨_, .rest rfl⟩
    | foreground => exact ⟨more, foregroundTurn_cases rfl (pop ▸ h)⟩
    | settle =>
      simp only at h
      split at h
      · cases h; exact ⟨more, .rest pop⟩
      · exact ⟨s.inputs, foregroundTurn_cases rfl h⟩
    | dmaByte c => cases h; exact ⟨more, .dmaByte c more hi (by rw [pop])⟩
    | fill a => cases h; exact ⟨more, .fill a more hi (by rw [pop])⟩
    | evict a => cases h; exact ⟨more, .evict a more hi (by rw [pop])⟩
    | hostDesc d hh =>
      simp only at h
      split at h
      · rename_i hidle
        cases h
        exact ⟨more, .hostDesc d hh hidle (by rw [pop])⟩
      · exact ⟨s.inputs, foregroundTurn_cases rfl h⟩
    | hostRead a => cases h; exact ⟨more, .hostRead a more hi (by rw [pop])⟩
    | hostWrite a v => cases h; exact ⟨more, .hostWrite a v more hi (by rw [pop])⟩

end Sys2Proof.Machine
end

