-- ==== Sys2Proof/Laws/Configure.lean ====
section
/-! SUPPORT. What C1 to C4 write and emit, one after another (40_config.md R120), in CONFIGURE and in a reconfiguration. -/

namespace Sys2Proof.Machine

/-- The default timeout where none is set (40_config.md R120 C1). -/
abbrev Desc.withTimeout (dt : Word) (e : Desc) : Desc := if e.timeout = 0 then { e with timeout := dt } else e

theorem Desc.withTimeout_keeps {β : Type} (dt : Word) (g : Desc → β) (h : ∀ e t, g { e with timeout := t } = g e) (e : Desc) :
    g (e.withTimeout dt) = g e := by
  unfold Desc.withTimeout
  split
  · exact h e dt
  · rfl

theorem configC1_eq (op : Instr) (x : Locals) (s : State) :
    configC1 op x s = { s with
      fg := .busy op .c2 x, descs := s.descs.modify x.d.toNat (Desc.withTimeout s.cfg.defaultTimeout) } := by
  unfold configC1
  split
  · rename_i hz
    simp only [State.goto, State.modifyDesc]
    congr 1
    refine modify_congr (fun a ha => ?_)
    rw [desc_of_getElem? ha] at hz
    simp only [Desc.withTimeout, hz, if_true]
  · rename_i hz
    have : s.descs.modify x.d.toNat (Desc.withTimeout s.cfg.defaultTimeout) = s.descs := by
      refine modify_eq_self (fun a ha => ?_)
      rw [desc_of_getElem? ha] at hz
      rw [Desc.withTimeout, if_neg hz]
    rw [this]; rfl

/-- C1 keeps what does not read the timeout. -/
theorem desc_configC1 {β : Type} (op : Instr) (x : Locals) (s : State) (d : Idx) (g : Desc → β)
    (h : ∀ e t, g { e with timeout := t } = g e) : g ((configC1 op x s).desc d) = g (s.desc d) := by
  rw [configC1_eq]
  exact desc_modifyDesc_field s x.d d g (Desc.withTimeout_keeps _ g h)

/-- The commands of C2 to C4 (40_config.md R120). -/
def configCmds (cfg : Config) (e : Desc) : List Cmd :=
  [.pmcEnable (Config.pid cfg e.bus), .twiConfigure e.bus e.freq] ++
    if (Config.bus cfg e.bus).hasFifo = true ∧ e.strategy = .fifo then
      [.fifoConfig e.bus (BitVec.ofNat 32 ((Config.bus cfg e.bus).fifoDepth.toNat / 2))
        (BitVec.ofNat 32 ((Config.bus cfg e.bus).fifoDepth.toNat / 2))]
    else []

/-- C1 to C4 in one. -/
theorem configC1234_eq (next : Label) (op : Instr) (x : Locals) (s : State) :
    configC4 next op x (configC3 op x (configC2 op x (configC1 op x s))) = { s with
      fg := .busy op next x
      descs := s.descs.modify x.d.toNat (Desc.withTimeout s.cfg.defaultTimeout)
      ctl := s.ctl.modify (Config.busOf s.cfg (Config.pid s.cfg (s.desc x.d).bus)).toNat (fun y => { y with clk := true })
      hist := s.hist ++ (configCmds s.cfg (s.desc x.d)).map Event.cmd } := by
  have hb := desc_configC1 op x s x.d Desc.bus (fun _ _ => rfl)
  have hf := desc_configC1 op x s x.d Desc.freq (fun _ _ => rfl)
  have hs := desc_configC1 op x s x.d Desc.strategy (fun _ _ => rfl)
  have h1 := configC1_eq op x s
  generalize configC1 op x s = u at hb hf hs h1
  have hc : u.cfg = s.cfg := by rw [h1]
  have e2 : configC2 op x u = { u with
      fg := .busy op .c3 x
      ctl := s.ctl.modify (Config.busOf s.cfg (Config.pid s.cfg (s.desc x.d).bus)).toNat (fun y => { y with clk := true })
      hist := s.hist ++ [.cmd (.pmcEnable (Config.pid s.cfg (s.desc x.d).bus))] } := by
    simp only [configC2, State.busOfDesc, hb, hc, State.emit, State.record, State.perform, State.modifyCtl, State.goto]
    rw [h1]
  generalize configC2 op x u = u2 at e2
  have d2 : u2.desc x.d = u.desc x.d := by rw [e2]; rfl
  have e3 : configC3 op x u2 = { u2 with
      fg := .busy op .c4 x
      hist := u2.hist ++ [.cmd (.twiConfigure (s.desc x.d).bus (s.desc x.d).freq)] } := by
    simp only [configC3, State.busOfDesc, d2, hb, hf, State.emit, State.record, State.perform, State.goto]
  generalize configC3 op x u2 = u3 at e3
  have d3 : u3.desc x.d = u.desc x.d := by rw [e3]; exact d2
  have c3 : u3.cfg = s.cfg := by rw [e3]; show u2.cfg = _; rw [e2]; exact hc
  unfold configC4 configCmds fifoHalf
  simp only [State.busOfDesc, d3, hb, hs, c3]
  split
  · simp only [State.emit, State.record, State.perform, State.goto, e3, e2, h1]
    simp
  · simp only [State.goto, e3, e2, h1]
    simp

/-- CONFIGURE from C1 on to its return. -/
theorem runOp_configure {s : State} {d : Idx} {x : Locals} (hx : x.d = d) (h : s.fg = .busy (.configure d) .c1 x) :
    runOp (.configure d) 5 s = .next { s with
      fg := .idle, result := none
      descs := s.descs.modify d.toNat (Desc.withTimeout s.cfg.defaultTimeout)
      ctl := s.ctl.modify (Config.busOf s.cfg (Config.pid s.cfg (s.desc d).bus)).toNat (fun y => { y with clk := true })
      hist := s.hist ++ (configCmds s.cfg (s.desc d)).map Event.cmd ++ [.ret .configure none] } := by
  subst hx
  have e1 : exec (.configure x.d) s = .next (configC1 (.configure x.d) x s) := by simp [exec, execConfigure, h]
  rw [runOp_succ e1]
  have f1 : (configC1 (.configure x.d) x s).fg = .busy (.configure x.d) .c2 x := by rw [configC1_eq]
  rw [runOp_succ (t := configC2 (.configure x.d) x (configC1 (.configure x.d) x s)) (by simp [exec, execConfigure, f1])]
  rw [runOp_succ (t := configC3 (.configure x.d) x (configC2 (.configure x.d) x (configC1 (.configure x.d) x s)))
    (by simp [exec, execConfigure, configC2])]
  rw [runOp_succ
    (t := configC4 .c5 (.configure x.d) x (configC3 (.configure x.d) x (configC2 (.configure x.d) x
      (configC1 (.configure x.d) x s)))) (by simp [exec, execConfigure, configC3])]
  rw [configC1234_eq]
  simp [runOp, exec, execConfigure, configC5, State.finish, State.record]

/-- A reconfiguration inside SUBMIT, from C1 to S9 (42_polling.md R168). -/
theorem runOp_reconfigure {s : State} {d : Idx} {rx tx : Option Buffer} {cb : Callback} {args : Word} {x : Locals}
    (hx : x.d = d) (h : s.fg = .busy (.submit d rx tx cb args) .c1 x) :
    runOp (.submit d rx tx cb args) 4 s = .next { s with
      fg := .busy (.submit d rx tx cb args) .s9 x
      descs := s.descs.modify d.toNat (Desc.withTimeout s.cfg.defaultTimeout)
      ctl := s.ctl.modify (Config.busOf s.cfg (Config.pid s.cfg (s.desc d).bus)).toNat (fun y => { y with clk := true })
      hist := s.hist ++ (configCmds s.cfg (s.desc d)).map Event.cmd } := by
  subst hx
  generalize hop : Instr.submit x.d rx tx cb args = op at h
  rw [runOp_succ (t := configC1 op x s) (by subst hop; exact exec_submit_busy h (by simp) (by simp))]
  have f1 : (configC1 op x s).fg = .busy op .c2 x := by rw [configC1_eq]
  rw [runOp_succ (t := configC2 op x (configC1 op x s)) (by subst hop; exact exec_submit_busy f1 (by simp) (by simp))]
  rw [runOp_succ (t := configC3 op x (configC2 op x (configC1 op x s)))
    (by subst hop; exact exec_submit_busy (l := .c3) (x := x) (by simp [configC2]) (by simp) (by simp))]
  rw [runOp_succ (t := configC4 .s9 op x (configC3 op x (configC2 op x (configC1 op x s))))
    (by subst hop; exact exec_submit_busy (l := .c4) (x := x) (by simp [configC3]) (by simp) (by simp))]
  rw [configC1234_eq]
  rfl

end Sys2Proof.Machine
end

