-- ==== Sys2Proof/Laws/Decode.lean ====
section
/-! SUPPORT. The fields of an encoded header, of the callback word and of the buffer words, read back, and rebuilt from what the decoder
reads. -/

namespace Sys2Proof

/-- Bit `i` of a header built of its fields. -/
theorem header_getLsbD (op : BitVec 8) (a : Idx) (r t : Bool) (i : Nat) : (header op a r t).getLsbD i =
    if i < 8 then op.getLsbD i else if i < 16 then a.getLsbD (i - 8) else if i = 16 then r
    else if i = 17 then t else false := by
  have e : header op a r t =
      ((((0#14 ++ BitVec.ofBool t : BitVec 15) ++ BitVec.ofBool r : BitVec 16) ++ a : BitVec 24) ++ op : BitVec (24 + 8)) := rfl
  rw [e, BitVec.getLsbD_append, BitVec.getLsbD_append]
  by_cases h8 : i < 8
  · simp [h8]
  by_cases h16 : i < 16
  · have : i - 8 < 8 := by omega
    simp [h8, h16, this]
  have h3 : ¬ i - 8 < 8 := by omega
  have e2 : ((0#14 ++ BitVec.ofBool t : BitVec 15) ++ BitVec.ofBool r : BitVec 16) =
      ((0#14 ++ BitVec.ofBool t : BitVec (14 + 1)) ++ BitVec.ofBool r : BitVec (15 + 1)) := rfl
  simp only [h8, h3, h16, if_false]
  rw [e2, BitVec.getLsbD_append, BitVec.getLsbD_append]
  by_cases h17 : i = 16
  · subst h17; simp
  by_cases h18 : i = 17
  · subst h18; simp
  have e3 : ¬ i - 8 - 8 < 1 := by omega
  have e4 : ¬ i - 8 - 8 - 1 < 1 := by omega
  simp [e3, e4, h17, h18]

@[simp] theorem hdrOp_header (op : BitVec 8) (a : Idx) (r t : Bool) : hdrOp (header op a r t) = op := by
  apply BitVec.eq_of_getLsbD_eq
  intro i hi
  simp [hdrOp, header_getLsbD, hi]

@[simp] theorem hdrArg_header (op : BitVec 8) (a : Idx) (r t : Bool) : hdrArg (header op a r t) = a := by
  apply BitVec.eq_of_getLsbD_eq
  intro i hi
  have : 8 + i < 16 := by omega
  simp [hdrArg, header_getLsbD, hi, this]

@[simp] theorem hdrRxp_header (op : BitVec 8) (a : Idx) (r t : Bool) : hdrRxp (header op a r t) = r := by
  rw [hdrRxp, header_getLsbD]; simp

@[simp] theorem hdrTxp_header (op : BitVec 8) (a : Idx) (r t : Bool) : hdrTxp (header op a r t) = t := by
  rw [hdrTxp, header_getLsbD]; simp

@[simp] theorem hdrRsv_header (op : BitVec 8) (a : Idx) (r t : Bool) : hdrRsv (header op a r t) = 0#14 := by
  apply BitVec.eq_of_getLsbD_eq
  intro i hi
  have h1 : ¬ 18 + i < 8 := by omega
  have h2 : ¬ 18 + i < 16 := by omega
  have h3 : ¬ 18 + i = 16 := by omega
  have h4 : ¬ 18 + i = 17 := by omega
  simp [hdrRsv, header_getLsbD, h1, h2, h3, h4]

/-- A header with its reserved bits 0 is its fields. -/
theorem header_of_fields (h : Word) (hr : hdrRsv h = 0#14) : header (hdrOp h) (hdrArg h) (hdrRxp h) (hdrTxp h) = h := by
  apply BitVec.eq_of_getLsbD_eq
  intro i hi
  rw [header_getLsbD]
  have hr' : 18 ≤ i → h.getLsbD i = false := by
    intro hj
    have := congrArg (fun v => v.getLsbD (i - 18)) hr
    have e : 18 + (i - 18) = i := by omega
    have e' : i - 18 < 14 := by omega
    simpa [hdrRsv, e, e'] using this
  by_cases h8 : i < 8
  · simp [h8, hdrOp]
  by_cases h16 : i < 16
  · have : i - 8 < 8 := by omega
    have e : 8 + (i - 8) = i := by omega
    simp [h8, h16, hdrArg, this, e]
  by_cases h17 : i = 16
  · subst h17; simp [hdrRxp]
  by_cases h18 : i = 17
  · subst h18; simp [hdrTxp]
  simp [h8, h16, h17, h18, hr' (by omega)]

/-- A code is its own opcode's and no other's. -/
@[simp] theorem ofCode_code (o : Opcode) : Opcode.ofCode o.code = some o := by cases o <;> decide

theorem code_of_ofCode {c : BitVec 8} {o : Opcode} (h : Opcode.ofCode c = some o) : o.code = c := by
  simpa using List.find?_some h

/-- Bit `i` of a user callback's word. -/
theorem user_encode_getLsbD (uid : BitVec 24) (rel : Bool) (i : Nat) : (Callback.user uid rel).encode.getLsbD i =
    if i < 2 then decide (i = 1) else if i = 2 then rel else if i < 8 then false else uid.getLsbD (i - 8) := by
  have e : (Callback.user uid rel).encode =
      (((uid ++ 0#5 : BitVec 29) ++ BitVec.ofBool rel : BitVec 30) ++ 2#2 : BitVec (30 + 2)) := rfl
  rw [e, BitVec.getLsbD_append]
  by_cases h2 : i < 2
  · have : i = 0 ∨ i = 1 := by omega
    rcases this with rfl | rfl <;> simp
  have e2 : ((uid ++ 0#5 : BitVec 29) ++ BitVec.ofBool rel : BitVec 30) =
      ((uid ++ 0#5 : BitVec (24 + 5)) ++ BitVec.ofBool rel : BitVec (29 + 1)) := rfl
  simp only [h2, if_false]
  rw [e2, BitVec.getLsbD_append, BitVec.getLsbD_append]
  by_cases h3 : i = 2
  · subst h3; simp
  have e3 : ¬ i - 2 < 1 := by omega
  by_cases h8 : i < 8
  · have : i - 2 - 1 < 5 := by omega
    simp [e3, h3, h8, this]
  have e4 : ¬ i - 2 - 1 < 5 := by omega
  have e5 : i - 2 - 1 - 5 = i - 8 := by omega
  simp [e3, e4, h3, h8, e5]

@[simp] theorem callback_decode_encode (cb : Callback) : Callback.decode cb.encode = some cb := by
  cases cb with
  | none => decide
  | default => decide
  | user uid rel =>
    have e1 : (Callback.user uid rel).encode.extractLsb' 0 2 = 2#2 := by
      apply BitVec.eq_of_getLsbD_eq
      intro i hi
      rw [BitVec.getLsbD_extractLsb', user_encode_getLsbD]
      have : i = 0 ∨ i = 1 := by omega
      rcases this with rfl | rfl <;> simp
    have e2 : (Callback.user uid rel).encode.extractLsb' 3 5 = 0#5 := by
      apply BitVec.eq_of_getLsbD_eq
      intro i hi
      have h1 : ¬ 3 + i < 2 := by omega
      have h2 : ¬ 3 + i = 2 := by omega
      have h3 : 3 + i < 8 := by omega
      simp [user_encode_getLsbD, h1, h2, h3]
    have e3 : (Callback.user uid rel).encode.getLsbD 2 = rel := by rw [user_encode_getLsbD]; simp
    have e4 : (Callback.user uid rel).encode.extractLsb' 8 24 = uid := by
      apply BitVec.eq_of_getLsbD_eq
      intro i hi
      have h1 : ¬ 8 + i < 2 := by omega
      have h2 : ¬ 8 + i = 2 := by omega
      simp [user_encode_getLsbD, hi, h1, h2]
    simp only [Callback.decode, e1, e2, e3, e4]
    simp

/-- The word of a callback the decoder admits. -/
theorem callback_encode_of_decode {w : Word} {cb : Callback} (h : Callback.decode w = some cb) : cb.encode = w := by
  simp only [Callback.decode] at h
  split at h
  · cases h
  rename_i h5
  have b5 : ∀ j, 3 ≤ j → j < 8 → w.getLsbD j = false := by
    intro j hj hj'
    have := congrArg (fun v => v.getLsbD (j - 3)) (not_not.mp h5)
    have e : 3 + (j - 3) = j := by omega
    have e' : j - 3 < 5 := by omega
    simpa [e, e'] using this
  have kk : ∀ v : BitVec 2, w.extractLsb' 0 2 = v → ∀ j, j < 2 → w.getLsbD j = v.getLsbD j := by
    intro v hv j hj
    have := congrArg (fun v => v.getLsbD j) hv
    simpa [hj] using this
  split at h
  · rename_i hk
    cases h
    apply BitVec.eq_of_getLsbD_eq
    intro i hi
    rw [user_encode_getLsbD]
    by_cases c1 : i < 2
    · rw [kk _ hk i c1]
      have : i = 0 ∨ i = 1 := by omega
      rcases this with rfl | rfl <;> simp
    by_cases c2 : i = 2
    · subst c2; simp
    by_cases c3 : i < 8
    · simp [c1, c2, c3, b5 i (by omega) c3]
    have e : 8 + (i - 8) = i := by omega
    have e' : i - 8 < 24 := by omega
    simp [c1, c2, c3, e, e']
  · split at h
    · cases h
    rename_i hr
    have high : ∀ j, 2 ≤ j → j < 32 → w.getLsbD j = false := by
      intro j h1 h2
      by_cases c2 : j = 2
      · subst c2
        simp only [not_or] at hr
        simpa using hr.1
      by_cases c3 : j < 8
      · exact b5 j (by omega) c3
      · simp only [not_or, ne_eq, not_not] at hr
        have := congrArg (fun v => v.getLsbD (j - 8)) hr.2
        have e : 8 + (j - 8) = j := by omega
        have e' : j - 8 < 24 := by omega
        simpa [e, e'] using this
    have low : ∀ v : BitVec 2, w.extractLsb' 0 2 = v → w = v.zeroExtend 32 := by
      intro v hv
      apply BitVec.eq_of_getLsbD_eq
      intro i hi
      by_cases c1 : i < 2
      · rw [kk v hv i c1]; simp [hi]
      · rw [high i (by omega) hi]
        simp [BitVec.getLsbD_of_ge v i (by omega)]
    split at h
    · rename_i hk
      cases h
      rw [low _ hk]; decide
    · split at h
      · rename_i hk
        cases h
        rw [low _ hk]; decide
      · cases h

/-- The words of a buffer the decoder admits. -/
theorem encodeBuffer_of_decode {p : Bool} {a n : Word} {r : Option Buffer} (h : decodeBuffer p a n = some r) :
    encodeBuffer r = [a, n] ∧ r.isSome = p := by
  cases p <;> simp only [decodeBuffer, Bool.false_eq_true, if_false, if_true] at h
  · split at h
    · rename_i h0
      cases h
      simp [encodeBuffer, h0]
    · cases h
  · cases h
    simp [encodeBuffer]

end Sys2Proof
end

