-- ==== Sys2Proof/Laws/Fifo.lean ====
section
/-! SUPPORT. What the streaming commands' draws and stores can do, said once. -/

namespace Sys2Proof.Machine

theorem fifoDraws_length (n : Nat) (s : State) : (fifoDraws n s).1.length = n := by
  induction n generalizing s with
  | zero => rfl
  | succ n ih => simp [fifoDraws, ih]

/-- The draws change the draws' own fields and the history, by one event for each byte, in order. -/
theorem fifoDraws_state (n : Nat) (s : State) :
    (fifoDraws n s).2 = { s with
      answers := s.answers.drop n, drawNo := s.drawNo + n
      hist := s.hist ++ (fifoDraws n s).1.map (fun v => .choice v.toNat) } := by
  induction n generalizing s with
  | zero => simp [fifoDraws]
  | succ n ih =>
    simp only [fifoDraws]
    rw [ih]
    simp [State.drawByte, State.consume, State.record, Nat.add_assoc, Nat.add_comm 1 n]

theorem memOk_fifoWrites (vs : List Byte) (a : Word) {s : State} (h : s.memOk) : (fifoWrites vs a s).memOk := by
  induction vs generalizing a s with
  | nil => exact h
  | cons v vs ih => exact ih _ (memOk_cpuWrite a v h)

theorem memOk_fifoReplaces (n : Nat) (a : Word) {s : State} (h : s.memOk) : (fifoReplaces n a s).memOk := by
  induction n generalizing a s with
  | zero => exact h
  | succ n ih =>
    have hd : s.choose.drawByte.memOk := h
    refine ih _ ?_
    split
    · exact memOk_cpuWrite a _ hd
    · exact h

/-- A streaming read keeps the canonical forms of memory and cache. -/
theorem memOk_fifoStores (ok : Bool) (n : Nat) (a : Word) {s : State} (h : s.memOk) : (fifoStores ok n a s).memOk := by
  unfold fifoStores
  split
  · refine memOk_fifoWrites _ a ?_
    rw [fifoDraws_state]
    exact h
  · exact memOk_fifoReplaces n a h

end Sys2Proof.Machine
end

