-- ==== Sys2Proof/Laws/PerInstr.lean ====
section
/-! SUPPORT. A statement about every operation's encoding, one lemma per operation. -/

namespace Sys2Proof.Laws.EncodeShape

/-- The words of an operation: as many as its header's opcode says (30_encoding.md R102), the first one a header of the operation's
opcode with the reserved bits 0 (R91), which has no buffer bits outside format FS. -/
def Statement (i : Instr) : Prop :=
  ∃ h rest, encode i = h :: rest ∧ (encode i).length = commandWords h ∧ hdrOp h = i.opcode.code ∧ hdrRsv h = 0#14 ∧
    (i.opcode.format ≠ .fs → hdrRxp h = false ∧ hdrTxp h = false)

theorem configure (d : Idx) : Statement (.configure d) :=
  ⟨_, _, rfl, by simp [encode, commandWords, Opcode.code], by simp [Instr.opcode], by simp, by simp⟩

theorem submit (d : Idx) (rx tx : Option Buffer) (cb : Callback) (args : Word) : Statement (.submit d rx tx cb args) :=
  ⟨_, _, rfl, by cases rx <;> cases tx <;> simp [encode, encodeBuffer, commandWords], by simp [Instr.opcode], by simp,
    fun h => absurd rfl h⟩

theorem isBusy (d : Idx) : Statement (.isBusy d) :=
  ⟨_, _, rfl, by simp [encode, commandWords, Opcode.code], by simp [Instr.opcode], by simp, by simp⟩

theorem waitUntilIdle (d : Idx) : Statement (.waitUntilIdle d) :=
  ⟨_, _, rfl, by simp [encode, commandWords, Opcode.code], by simp [Instr.opcode], by simp, by simp⟩

theorem defaultCallback (d : Idx) : Statement (.defaultCallback d) :=
  ⟨_, _, rfl, by simp [encode, commandWords, Opcode.code], by simp [Instr.opcode], by simp, by simp⟩

theorem irqRxrdy (p : Idx) : Statement (.irqRxrdy p) :=
  ⟨_, _, rfl, by simp [encode, commandWords, Opcode.code], by simp [Instr.opcode], by simp, by simp⟩

theorem irqTxrdy (p : Idx) : Statement (.irqTxrdy p) :=
  ⟨_, _, rfl, by simp [encode, commandWords, Opcode.code], by simp [Instr.opcode], by simp, by simp⟩

theorem irqTxcomp (p : Idx) : Statement (.irqTxcomp p) :=
  ⟨_, _, rfl, by simp [encode, commandWords, Opcode.code], by simp [Instr.opcode], by simp, by simp⟩

theorem irqNone (p : Idx) : Statement (.irqNone p) :=
  ⟨_, _, rfl, by simp [encode, commandWords, Opcode.code], by simp [Instr.opcode], by simp, by simp⟩

theorem dmaDone (c : Idx) : Statement (.dmaDone c) :=
  ⟨_, _, rfl, by simp [encode, commandWords, Opcode.code], by simp [Instr.opcode], by simp, by simp⟩

end Sys2Proof.Laws.EncodeShape
end

