-- ==== Sys2Proof/Tests/Slice0.lean ====
section
/-! SUPPORT. The model's own tests. Expected results are the spec's: the vectors of 95_test_vectors.md (V-…, E…), R105's words, or
values worked out by hand from the rule named. The witnesses show that the hypotheses of each obligation can be met together. -/

namespace Sys2Proof.Tests
open Sys2Proof Sys2Proof.Machine

/-! ## Small states -/

/-- The descriptors of 95_test_vectors.md section 0. -/
def hostDescs : List HostDesc := [
  ⟨0, 400000, .polling, 0, 0x50, 0, 0⟩,
  ⟨0, 400000, .async, 100, 0x50, 0, 0⟩,
  ⟨0, 400000, .dma, 100, 0x50, 0, 0⟩,
  ⟨1, 100000, .fifo, 50, 0x1A, 0x0010, 2⟩]

/-- The launch state of the vectors, with bytes `A0 A1 A2` at 0x20000010. -/
def launch : State :=
  State.launch Config.reset hostDescs [(0x20000010, 0xA0), (0x20000011, 0xA1), (0x20000012, 0xA2)]

/-- `launch` with what the outside does and answers. -/
def given (inputs : List Input) (answers : List Nat) : State := { launch with inputs := inputs, answers := answers }

/-- `launch` with the foreground at a micro-step. -/
def standing (op : Instr) (l : Label) (x : Locals) (answers : List Nat) : State :=
  { launch with fg := .busy op l x, answers := answers }

/-- `launch` with the lock of a descriptor held. -/
def held (d : Idx) : State := launch.takeLock d

/-- A polling write of three bytes on descriptor 0 (E2), a DMA write of 32 on descriptor 2, and working values for them. -/
def opW : Instr := .submit 0 none (some ⟨0x20000010, 3⟩) .default 0
def locW : Locals := { Locals.init 0 with buf := 0x20000010, len := 3, dir := .write, i := 1 }
def opR : Instr := .submit 0 (some ⟨0x20000020, 2⟩) none .default 0
def locR : Locals := { Locals.init 0 with buf := 0x20000020, len := 2, dir := .read }
def opA : Instr := .submit 1 none (some ⟨0x20000010, 3⟩) .default 0
def locA : Locals := { Locals.init 1 with buf := 0x20000010, len := 3, dir := .write, eff := .async }
def opD : Instr := .submit 2 none (some ⟨0x20000400, 32⟩) .default 0
def locD : Locals := { Locals.init 2 with buf := 0x20000400, len := 32, dir := .write, eff := .dma, ch := some 0 }
def opF : Instr := .submit 3 none (some ⟨0x20000010, 2⟩) .default 0
def locF : Locals := { Locals.init 3 with buf := 0x20000010, len := 2, dir := .write, eff := .fifo }

/-- Slot 0 bound to identifier 19 for descriptor 1: the read of three bytes of V-ASYNC-R3 after `n` of them. -/
def readSlot (n : Word) : Slot where
  desc := launch.desc 1
  owner := some 1
  ptr := some (0x20001000 + n)
  transferred := n
  size := 3
  pid := some 19
  bufLo := 0x20001000
  bufHi := 0x20001003

/-- The same read into the last three bytes of memory, whose `buf_hi` is 0. -/
def topSlot (n : Word) : Slot := { readSlot n with ptr := some (0xFFFFFFFD + n), bufLo := 0xFFFFFFFD, bufHi := 0 }

def bound (y : Slot) (answers : List Nat) : State :=
  { launch with slots := launch.slots.set 0 y, answers := answers, ctl := launch.ctl.set 0 ⟨1, true, .shared, true⟩ }

/-- Channel 1 a read of 16 bytes for descriptor 2 (V-DMA-R16), `n` of them moved, with a stale line over its buffer. -/
def readChan (n : Word) : State :=
  { launch with
    chans := launch.chans.set 1 ⟨true, 2, .read, 0x40018030, 0x20000800, false, true, 16, n, true, true⟩
    cache := [(0x20000800, ⟨.clean, List.replicate 32 0⟩)]
    descs := launch.descs.modify 2 (fun e => { e with lock := true, regionAddr := 0x20000800, regionLen := 16, callback := .default }) }

/-- The next state of an answer, for reading its fields; `launch` where there is none. -/
def after (o : Host.Outcome State Fault Refusal) : State :=
  match o with
  | .next t => t
  | _ => launch

/-! ## Well-formedness: a term each check refuses -/

theorem test_wf_desc : [Instr.configure 4, .submit 4 none none .none 0, .isBusy 4, .waitUntilIdle 4, .defaultCallback 255].all
    (fun i => !i.wf Config.reset) = true := by decide
theorem test_wf_pid : [Instr.irqRxrdy 21, .irqTxrdy 21, .irqTxcomp 255, .irqNone 1].all
    (fun i => !i.wf Config.reset) = true := by decide
theorem test_wf_chan : (Instr.dmaDone 4).wf Config.reset = false := by decide
theorem test_wf_config : ({ Config.reset with nSlots := 0 } : Config).wf = false ∧
    ({ Config.reset with dmaThreshold := 1 } : Config).wf = false ∧
    ({ Config.reset with defaultTimeout := 0 } : Config).wf = false ∧
    ({ Config.reset with cacheLine := 24 } : Config).wf = false ∧ Config.reset.wf = true := by decide

/-! ## Decoding: words written out from R91 to R95 -/

theorem test_decode_headers :
    decode Config.reset [0x00000301] = .ok (.configure 3, []) ∧
    decode Config.reset [0x00000003] = .ok (.isBusy 0, []) ∧
    decode Config.reset [0x00000104] = .ok (.waitUntilIdle 1, []) ∧
    decode Config.reset [0x00000105] = .ok (.defaultCallback 1, []) ∧
    decode Config.reset [0x00001310] = .ok (.irqRxrdy 19, []) ∧
    decode Config.reset [0x00001311] = .ok (.irqTxrdy 19, []) ∧
    decode Config.reset [0x00001312] = .ok (.irqTxcomp 19, []) ∧
    decode Config.reset [0x00001313] = .ok (.irqNone 19, []) ∧
    decode Config.reset [0x00000220] = .ok (.dmaDone 2, []) := by decide
theorem test_decode_submit :
    decode Config.reset [0x00010102, 0x20001000, 0x00000003, 0, 0, 0x00000506, 0] =
      .ok (.submit 1 (some ⟨0x20001000, 3⟩) none (.user 5 true) 0, []) ∧
    decode Config.reset [0x00020102, 0, 0, 0x20000100, 2, 0x00000902, 7, 0x00000003] =
      .ok (.submit 1 none (some ⟨0x20000100, 2⟩) (.user 9 false) 7, [0x00000003]) := by decide
/-- V-DEC-1 to V-DEC-9. -/
theorem test_decode_refusals :
    decode Config.reset [0x00000006] = .error .illegalOpcode ∧
    decode Config.reset [0x00040001] = .error .reservedBits ∧
    decode Config.reset [0x00010001] = .error .reservedBits ∧
    decode Config.reset [0x00000401] = .error .badDesc ∧
    decode Config.reset [0x00001510] = .error .unknownPid ∧
    decode Config.reset [0x00000420] = .error .badChannel ∧
    decode Config.reset [0x00020002, 0, 0, 0x20000000, 1, 3, 0] = .error .reservedBits ∧
    decode Config.reset [0x00020002, 0x20000000, 0, 0x20000000, 1, 1, 0] = .error .reservedBits ∧
    decode Config.reset [0x00020002, 0, 0, 0x20000000, 1, 5, 0] = .error .reservedBits := by decide
/-- The words of a row, and the step that runs them after reset. -/
theorem test_fetch_word :
    decodeTableWord 32 0x0003 = some (.isBusy 0) ∧ decodeTableWord 32 0x1311 = some (.irqTxrdy 19) ∧
    decodeTableWord 224 0x00030002 = some (.submit 0 (some ⟨0, 0⟩) (some ⟨0, 0⟩) .none 0) ∧
    after (step (State.reset.withFetchWord 32 0x0003)) = after (exec (.isBusy 0) State.reset) ∧
    (after (step (State.reset.withFetchWord 32 0x0020))).chans[0]? = some { Chan.launch with started := true, cbSet := true } := by
  decide

/-- R36, R38: the event a step presents is a draw, in the history before what the handler emits. -/
theorem test_event_recorded :
    (after (step (State.reset.withFetchWord 32 0x1313))).hist = [.presented (.irqNone 19), .cmd (.intDisable 0 3)] := by decide

/-! ## One step of each operation -/

/-- V-CFG-2's second step. -/
theorem test_configure_enables_clock :
    (after (exec (.configure 0) (standing (.configure 0) .c2 (Locals.init 0) []))).ctl.map Ctl.clk = [true, false, false] := by decide
/-- V-CFG-3: half of a depth of 16. -/
theorem test_configure_fifo_half :
    (after (exec (.configure 3) (standing (.configure 3) .c4 (Locals.init 3) []))).trace = [.fifoConfig 1 8 8] := by decide
/-- E2: byte 1 is sent after byte 0. -/
theorem test_submit_sends_next_byte : (after (exec opW (standing opW .pw8 locW [0]))).trace = [.writeByte 0 0xA1] := by decide
/-- V-ASYNC: the slot of a write is one byte short and points past byte 0 (E11). -/
theorem test_submit_binds_write_slot :
    ((after (exec opA (standing opA .a1 locA []))).slots[0]?).map (fun y => (y.ptr, y.size, y.pid, y.owner)) =
      some (some 0x20000011, 2, some 19, some 1) := by decide
theorem test_is_busy_held : (after (exec (.isBusy 1) (held 1))).result = some 1 := by decide
/-- V-WAIT-1 and V-WAIT-2. -/
theorem test_wait_returns_or_holds :
    (after (exec (.waitUntilIdle 0) launch)).fg = .idle ∧
    (after (exec (.waitUntilIdle 1) (held 1))).fg = .busy (.waitUntilIdle 1) .w1 (Locals.init 1) := by decide
/-- V-DEF-1. -/
theorem test_default_callback : ((after (exec (.defaultCallback 1) (held 1))).desc 1).lock = false := by decide
/-- R198's example: the second of three bytes goes to `buf + 1` and stops. -/
theorem test_irq_rxrdy_second_byte :
    (after (exec (.irqRxrdy 19) (bound (readSlot 1) [0x22, 0]))).trace = [.readByte 0 0x22, .stop 0] ∧
    (after (exec (.irqRxrdy 19) (bound (readSlot 1) [0x22, 0]))).cpuByte 0x20001001 = 0x22 := by decide
/-- V-ASYNC-OVR. -/
theorem test_irq_rxrdy_overrun :
    (after (exec (.irqRxrdy 19) (bound (readSlot 3) [0x44]))).fault = some (.rxOverrun 0 (some 0x20001003)) := by decide
/-- R202 at the top of memory: the last byte is stored, one more faults. -/
theorem test_irq_rxrdy_top_of_memory :
    (after (exec (.irqRxrdy 19) (bound (topSlot 2) [0x55, 0]))).cpuByte 0xFFFFFFFF = 0x55 ∧
    (after (exec (.irqRxrdy 19) (bound (topSlot 3) [0x55, 0]))).fault = some (.rxOverrun 0 (some 0)) := by decide
/-- R199's example. -/
theorem test_irq_txrdy_all_sent :
    (after (exec (.irqTxrdy 19) (bound (readSlot 3) []))).trace = [.intDisable 0 2, .intEnable 0 4, .stop 0] := by decide
/-- V-ASYNC-EARLY: freed with nothing transferred. -/
theorem test_irq_txcomp_frees_slot :
    ((after (exec (.irqTxcomp 19) (bound (readSlot 0) []))).slots[0]?).map (fun y => (y.ptr, y.pid, y.transferred)) =
      some (none, none, 0) := by decide
/-- V-ASYNC-OVERWRITE's last event: no slot of identifier 20. -/
theorem test_irq_unmatched :
    (after (exec (.irqTxcomp 20) launch)).trace = [.intDisable 1 3] ∧
    (after (exec (.irqTxcomp 20) launch)).hz.unmatchedIrq = true := by decide
/-- V-ASYNC-NONE. -/
theorem test_irq_none_matched : after (exec (.irqNone 19) (bound (readSlot 0) [])) = bound (readSlot 0) [] := by decide
/-- V-DMA-R16's completion: the invalidate, the callback, the release. -/
theorem test_dma_done_read :
    (after (exec (.dmaDone 1) (readChan 16))).trace =
      [.cacheInvalidate 0x20000800 16, .callback .default 0 2 0, .dmaFree 1] ∧
    (after (exec (.dmaDone 1) (readChan 16))).cache = [] ∧
    ((after (exec (.dmaDone 1) (readChan 16))).desc 2).lock = false := by decide

/-! ## Witnesses: the hypotheses of each obligation, met together -/

/-- The smallest and a larger machine R105's words decode on. -/
theorem witness_WorkedEncodings :
    4 ≤ Config.reset.nDesc ∧ Config.reset.knowsPid 19 = true ∧ 3 ≤ Config.reset.nDmaCh ∧
    3 ≤ ({ Config.reset with nDmaCh := 3 } : Config).nDmaCh := by decide

/-- The last descriptor, identifier and channel. -/
theorem witness_DecodeOfEncode :
    (Instr.submit 3 (some ⟨0xFFFFFFFF, 0⟩) none (.user 0xFFFFFF true) 0xFFFFFFFF).wf Config.reset = true ∧
    (Instr.configure 0).wf Config.reset = true ∧ (Instr.isBusy 3).wf Config.reset = true ∧
    (Instr.waitUntilIdle 3).wf Config.reset = true ∧ (Instr.defaultCallback 3).wf Config.reset = true ∧
    (Instr.irqRxrdy 20).wf Config.reset = true ∧ (Instr.irqTxrdy 19).wf Config.reset = true ∧
    (Instr.irqTxcomp 0).wf Config.reset = true ∧ (Instr.irqNone 19).wf Config.reset = true ∧
    (Instr.dmaDone 3).wf Config.reset = true := by decide

theorem witness_EncodeOfDecode :
    ∃ ws rest i, decode Config.reset ws = .ok (i, rest) ∧ rest ≠ [] :=
  ⟨[0x00000320, 0x00000003], [0x00000003], .dmaDone 3, by decide⟩

/-- A SUBMIT header with its six words, and every other header. -/
theorem witness_DecodeProcedure :
    ((0x00000002 : Word).toNat % 256 = 2 → 6 ≤ [0, 0, 0, 0, (3 : Word), 0].length) ∧
    ((0x00040006 : Word).toNat % 256 = 2 → 6 ≤ ([] : List Word).length) := by decide

theorem witness_StepRunsDecoded :
    (let s := given [.command (encode (.isBusy 3) ++ [0x00000003])] [];
      s.fault = none ∧ s.refused = none ∧ (Instr.isBusy 3).wf s.cfg = true ∧ s.mayIssue (.isBusy 3) = true) ∧
    (let s := { bound (readSlot 0) [0] with inputs := [.command (encode (.irqNone 19) ++ [])] };
      s.fault = none ∧ s.refused = none ∧ (Instr.irqNone 19).wf s.cfg = true ∧ s.mayIssue (.irqNone 19) = true) ∧
    (∃ op l x, (standing opW .pw1 locW []).fg = .busy op l x ∧ (standing opW .pw1 locW []).inputs = []) ∧
    (∃ op l x, ({ standing opW .pw1 locW [] with inputs := [.foreground] } : State).fg = .busy op l x) ∧
    (∃ op l x, ({ standing opW .pw1 locW [] with inputs := [.command (encode (.isBusy 0) ++ [])] } : State).fg = .busy op l x) ∧
    launch.fg = .idle ∧ launch.inputs = [] :=
  ⟨by decide, by decide, ⟨_, _, _, rfl, rfl⟩, ⟨_, _, _, rfl⟩, ⟨_, _, _, rfl⟩, rfl, rfl⟩

theorem witness_MarkedStateStops :
    (launch.refuse .zeroLength).refused ≠ none ∧ (launch.raise (.dmaAlloc 2 .write)).fault ≠ none ∧
    (let s := given [.command [0x00000006]] [];
      s.fault = none ∧ s.refused = none ∧ s.fg = .idle ∧ [(0x00000006 : Word)] ≠ [] ∧
      decode s.cfg [0x00000006] = .error .illegalOpcode) := by decide

/-- Both filters, and an event that may not be presented: the line is off at launch. -/
theorem witness_EventsUnderTheirConditions :
    launch.cfg.irqFilter = .any ∧
    ({ launch with cfg := { Config.reset with irqFilter := .enabledOnly } } : State).cfg.irqFilter = .enabledOnly ∧
    (let s := given [.command [0x00001310]] [];
      s.fault = none ∧ s.refused = none ∧ decode s.cfg [0x00001310] = .ok (.irqRxrdy 19, []) ∧
      (Instr.irqRxrdy 19).opcode.foreground = false ∧ s.mayIssue (.irqRxrdy 19) = false) := by decide

/-- Every label of CONFIGURE, a descriptor in range and one out of range (V-CFG-5). -/
theorem witness_ConfigureMicroSteps :
    launch.fg = .idle ∧ launch.descOk 3 = true ∧
    (launch.modifyDesc 0 (fun e => { e with slave := 0x80 })).descOk 0 = false ∧
    (launch.modifyDesc 0 (fun e => { e with isize := 1, iaddr := 0x100 })).descOk 0 = false ∧
    (∀ l ∈ [Label.c1, .c2, .c3, .c4, .c5],
      (standing (.configure 3) l (Locals.init 3) []).fg = .busy (.configure 3) l (Locals.init 3)) ∧
    (Locals.init 3).d = 3 := by decide

theorem witness_ConfigureRun : launch.cfg.wf = true ∧ launch.fg = .idle ∧ launch.descOk 3 = true := by decide
theorem witness_ConfigureIdempotent : launch.fg = .idle ∧ launch.descOk 0 = true ∧ (launch.desc 0).timeout = 0 := by decide
theorem witness_IsBusyReturnsLock : launch.fg = .idle ∧ (held 1).fg = .idle := by decide

theorem witness_WaitUntilIdle :
    (launch.fg = .idle ∧ (launch.desc 1).lock = false) ∧
    ((standing (.waitUntilIdle 1) .w1 (Locals.init 1) []).fg = .busy (.waitUntilIdle 1) .w1 (Locals.init 1) ∧
      ((standing (.waitUntilIdle 1) .w1 (Locals.init 1) []).desc 1).lock = false) ∧
    ((held 1).fg = .idle ∧ ((held 1).desc 1).lock = true) ∧
    (((standing (.waitUntilIdle 1) .w1 (Locals.init 1) []).takeLock 1).fg = .busy (.waitUntilIdle 1) .w1 (Locals.init 1) ∧
      (((standing (.waitUntilIdle 1) .w1 (Locals.init 1) []).takeLock 1).desc 1).lock = true) := by decide

theorem witness_DefaultCallbackFreesLock : (held 1).fg = .idle ∧ (launch.desc 1).lock = false := by decide

/-- The last slave address and an internal address at the end of its width, and one past each. -/
theorem witness_SubmitChecksDescriptor :
    launch.fg = .idle ∧
    (let e := (launch.modifyDesc 3 (fun e => { e with slave := 127, isize := 3, iaddr := 0xFFFFFF })).desc 3;
      e.bus.toNat < Config.reset.buses.length ∧ e.slave.toNat ≤ 127 ∧ e.isize.toNat ≤ 3 ∧ e.iaddr.toNat < 2 ^ (8 * e.isize.toNat)) ∧
    (let e := (launch.modifyDesc 3 (fun e => { e with slave := 128 })).desc 3;
      ¬ (e.bus.toNat < Config.reset.buses.length ∧ e.slave.toNat ≤ 127 ∧ e.isize.toNat ≤ 3 ∧
        e.iaddr.toNat < 2 ^ (8 * e.isize.toNat))) := by decide

/-- A free lock, and a held one. -/
theorem witness_SubmitRecordsCallback :
    locW.d = 0 ∧ (standing opW .s1 locW []).fg = .busy opW .s1 locW ∧
    (((standing opW .s1 locW []).takeLock 0).desc 0).lock = true := by decide

theorem witness_SubmitTryLock :
    (locW.d = 0 ∧ (standing opW .s2 locW []).fg = .busy opW .s2 locW ∧ ((standing opW .s2 locW []).desc 0).lock = false) ∧
    ((held 1).fg = .idle ∧ (held 1).descOk 1 = true ∧ ((held 1).desc 1).lock = true) := by decide

/-- V-SUB-5 and V-SUB-6. -/
theorem witness_SubmitDuplex :
    launch.fg = .idle ∧ launch.descOk 2 = true ∧ (launch.desc 2).lock = false ∧ (launch.desc 2).strategy = .dma ∧
    (some (⟨0x20000000, 32⟩ : Buffer)).isSome = (some (⟨0x20000100, 32⟩ : Buffer)).isSome ∧
    (none : Option Buffer).isSome = (none : Option Buffer).isSome := by decide

theorem witness_SubmitActiveBuffer :
    locW.d = 0 ∧ (standing opW .s3 locW []).fg = .busy (.submit 0 none (some ⟨0x20000010, 3⟩) .default 0) .s3 locW ∧
    (standing opR .s3 locR []).fg = .busy (.submit 0 (some ⟨0x20000020, 2⟩) none .default 0) .s3 locR ∧
    (let op := Instr.submit 0 none none .default 0;
      ((standing op .s3 locW []).desc 0).strategy ≠ .dma ∧ (standing op .s3 locW []).fg = .busy op .s3 locW) := by decide

/-- Length 0; a range past the end and one that ends at it; one that holds a register and one that stops before it (V-SUB-1 to V-SUB-3). -/
theorem witness_SubmitBufferCheck :
    (standing opW .s4 locW []).fg = .busy opW .s4 locW ∧
    ({ locW with len := 0 } : Locals).len = 0 ∧
    2 ^ 32 < (0xFFFFFFF0 : Word).toNat + (17 : Word).toNat ∧ (0xFFFFFFF0 : Word).toNat + (16 : Word).toNat ≤ 2 ^ 32 ∧
    (∃ b ∈ Config.reset.buses, (0x4001802D ≤ b.rhr.toNat ∧ b.rhr.toNat < 0x4001802D + 4)) ∧
    ¬ (∃ b ∈ Config.reset.buses, (0x4001802C ≤ b.thr.toNat ∧ b.thr.toNat < 0x4001802C + 4) ∨
      (0x4001802C ≤ b.rhr.toNat ∧ b.rhr.toNat < 0x4001802C + 4)) := by decide

/-- Every row of R145's table at the edge of its condition, and every engine. -/
theorem witness_SubmitStrategyAndEngine :
    ((launch.desc 0).strategy, (launch.desc 1).strategy, (launch.desc 2).strategy, (launch.desc 3).strategy) =
      (.polling, .async, .dma, .fifo) ∧
    (1 : Word) = 1 ∧ 2 ≤ (2 : Word).toNat ∧ (15 : Word).toNat < Config.reset.dmaThreshold ∧
    Config.reset.dmaThreshold ≤ (16 : Word).toNat ∧
    (Config.bus Config.reset (launch.desc 3).bus).hasFifo = true ∧ (Config.bus Config.reset 0).hasFifo = false ∧
    (standing opA .s5 locA []).fg = .busy opA .s5 locA ∧ (standing opA .s6 locA []).fg = .busy opA .s6 locA ∧
    (locA.eff, locA.dir, Label.a1) ∈ [(Strategy.async, Dir.write, Label.a1), (.async, .read, .a1)] := by decide

theorem witness_SubmitReturn :
    ((standing opW .s2 locW []).takeLock 0).fg = .busy opW .s2 locW ∧
    (((standing opW .s2 locW []).takeLock 0).desc 0).lock = true ∧
    (standing opW .s9 locW []).fg = .busy opW .s9 locW ∧ locW.st = .success ∧
    (({ locW with st := .noSlot } : Locals).st, (5 : Word)) ∈
      [(Status.lock, (1 : Word)), (.ack, 2), (.timeout, 3), (.duplex, 4), (.noSlot, 5)] := by decide

theorem witness_SubmitTerminates : launch.fg = .idle ∧ launch.fault = none ∧ launch.refused = none := by decide

/-- One byte and three bytes, every answer good. -/
theorem witness_PollWriteGood :
    (let s := standing opW .pw1 locW [0, 0, 0, 0, 0, 0, 0, 0, 0];
      s.cfg.wf = true ∧ s.fg = .busy opW .pw1 locW ∧ locW.len ≠ 0 ∧ s.callbackAdmitted (s.desc 0).callback = true ∧
      ∃ t, runOp opW 17 s = .next t ∧ t.hist = s.hist ++ t.hist ∧ ∀ c ∈ cmdsOf t.hist, c.failed = false) ∧
    (let x := { locW with len := 1 };
      let s := standing opW .pw1 x [0, 0, 0, 0];
      ∃ t, runOp opW 9 s = .next t ∧ ∀ c ∈ cmdsOf t.hist, c.failed = false) :=
  ⟨⟨by decide, rfl, by decide, by decide, after (runOp opW 17 (standing opW .pw1 locW [0, 0, 0, 0, 0, 0, 0, 0, 0])), rfl, rfl, by decide⟩,
    after (runOp opW 9 (standing opW .pw1 { locW with len := 1 } [0, 0, 0, 0])), rfl, by decide⟩

theorem witness_PollReadGood :
    (let s := standing opR .pr1 locR [0, 0x5A, 0, 0, 0, 0x5B, 0, 0, 0];
      s.cfg.wf = true ∧ s.memOk ∧ s.fg = .busy opR .pr1 locR ∧ locR.len ≠ 0 ∧ locR.buf.toNat + locR.len.toNat ≤ 2 ^ 32 ∧
      s.callbackAdmitted (s.desc 0).callback = true ∧
      ∃ t, runOp opR 12 s = .next t ∧ t.hist = s.hist ++ t.hist ∧ ∀ c ∈ cmdsOf t.hist, c.failed = false) ∧
    (let x : Locals := { locR with buf := 0xFFFFFFFF, len := 1 };
      x.buf.toNat + x.len.toNat ≤ 2 ^ 32 ∧
      ∃ t, runOp opR 8 (standing opR .pr1 x [0, 0x77, 0, 0]) = .next t ∧ ∀ c ∈ cmdsOf t.hist, c.failed = false) :=
  ⟨⟨by decide, ⟨by decide, by decide⟩, rfl, by decide, by decide, by decide,
      after (runOp opR 12 (standing opR .pr1 locR [0, 0x5A, 0, 0, 0, 0x5B, 0, 0, 0])), rfl, rfl, by decide⟩, by decide,
    after (runOp opR 8 (standing opR .pr1 { locR with buf := 0xFFFFFFFF, len := 1 } [0, 0x77, 0, 0])), rfl, by decide⟩

theorem witness_PollNack :
    ∀ l ∈ [Label.pw3, .pw7, .pr5], (standing opW l locW [1]).fg = .busy opW l locW ∧ (standing opW l locW [1]).answerBit = true := by
  decide

theorem witness_PollByteTimeout :
    (∀ l ∈ [Label.pw6, .pr3, .pr7], (standing opR l locR [1]).fg = .busy opR l locR ∧ (standing opR l locR [1]).answerWait = .timeout) ∧
    launch.cfg.wf = true ∧ Memory.wf launch.mem = true ∧ Cache.wf launch.cfg launch.cache = true ∧
    (standing opR .pr8 { locR with aborted := true } [0x77, 1, 0]).fg = .busy opR .pr8 { locR with aborted := true } ∧
    (standing opR .pr8 locR [0x77, 0]).fg = .busy opR .pr8 locR := by decide

theorem witness_TransferComplete :
    (∀ l ∈ [Label.pw10, .pr9, .f3], (standing opF l locF [1]).fg = .busy opF l locF ∧ (standing opF l locF [1]).answerWait = .timeout ∧
      (standing opF l locF [0]).answerWait = .ready) ∧
    launch.cfg.wf = true ∧ launch.descOk 3 = true ∧
    (∀ l ∈ [Label.pw11, .pr10, .f4], (standing opF l locF []).fg = .busy opF l locF ∧
      (standing opF l locF []).callbackAdmitted .default = true) ∧
    (let s : State := { standing opF .f4 locF [] with cfg := { Config.reset with callers := [7] } };
      (s.modifyDesc 3 (fun e => { e with callback := .user 7 true })).callbackAdmitted (.user 7 true) = false) := by decide

/-- A free slot at RR, one further on round the table, and none. -/
theorem witness_AsyncAllocateFailFast :
    (let s := standing opA .a1 locA [];
      s.cfg.slotPolicy = .failFast ∧ s.slots.length = s.cfg.nSlots ∧ s.fg = .busy opA .a1 locA ∧
      0 = (s.rr + 0) % s.cfg.nSlots ∧ s.slots[0]? = some Slot.launch ∧ Slot.launch.free = true) ∧
    (let s : State := { standing opA .a1 locA [] with rr := 7, slots := launch.slots.set 7 (readSlot 0) };
      1 < s.cfg.nSlots ∧ 0 = (s.rr + 1) % s.cfg.nSlots ∧ s.slots[0]? = some Slot.launch ∧
      ∀ i, i < 1 → (s.slots[(s.rr + i) % s.cfg.nSlots]?).map Slot.free = some false) ∧
    (let s : State := { standing opA .a1 locA [] with slots := List.replicate 8 (readSlot 0) };
      s.cfg.slotPolicy = .failFast ∧ s.slots.length = s.cfg.nSlots ∧ s.fg = .busy opA .a1 locA ∧ ∀ y ∈ s.slots, y.free = false) := by
  decide

theorem witness_AsyncAllocateOverwrite :
    (let s : State := { standing opA .a1 locA [] with cfg := { Config.reset with slotPolicy := .overwrite } };
      s.cfg.slotPolicy = .overwrite ∧ s.slots[s.rr]? = some Slot.launch ∧ s.fg = .busy opA .a1 locA) ∧
    (bound (readSlot 0) []).slots[0]? = some (readSlot 0) := by decide

theorem witness_AsyncStart :
    let s := standing opA .a2 locA [0];
    s.cfg.wf = true ∧ s.descOk 1 = true ∧ s.fg = .busy opA .a2 locA ∧ locA.d = 1 := by decide

/-- The slot bound to 19 is slot 0. -/
theorem bound_lowest (y : Slot) (answers : List Nat) (h : y.pid = some 19) : (bound y answers).lowestBound 19 0 y :=
  ⟨rfl, h, fun _ _ h => absurd h (Nat.not_lt_zero _)⟩

/-- The first byte of the buffer, the last, and one past it, also where the buffer ends at the top of memory. -/
theorem witness_IrqRxrdyMatched :
    (bound (readSlot 0) [0x11, 0]).lowestBound 19 0 (readSlot 0) ∧ (readSlot 0).ptr = some 0x20001000 ∧
    ((readSlot 0).bufLo.toNat ≤ (0x20001000 : Word).toNat ∧ (0x20001000 : Word).toNat < (readSlot 0).bufHi.toNat) ∧
    (readSlot 2).ptr = some 0x20001002 ∧ (0x20001002 : Word).toNat < (readSlot 2).bufHi.toNat ∧
    (readSlot 3).ptr = some 0x20001003 ∧ (readSlot 3).bufHi.toNat ≤ (0x20001003 : Word).toNat ∧
    ((topSlot 2).bufHi = 0 ∧ (topSlot 2).bufLo ≠ 0 ∧ (topSlot 2).ptr = some 0xFFFFFFFF ∧ (topSlot 3).ptr = some 0) :=
  ⟨bound_lowest _ _ rfl, by decide⟩

theorem witness_IrqTxrdyMatched :
    (bound (readSlot 3) []).lowestBound 19 0 (readSlot 3) ∧ (readSlot 3).transferred = (readSlot 3).size ∧
    (readSlot 2).transferred ≠ (readSlot 2).size ∧ (readSlot 2).ptr = some 0x20001002 :=
  ⟨bound_lowest _ _ rfl, by decide⟩

theorem witness_IrqTxcompMatched :
    (bound (readSlot 3) []).lowestBound 19 0 (readSlot 3) ∧ (readSlot 3).owner = some 1 ∧
    (bound (readSlot 3) []).callbackAdmitted (readSlot 3).desc.callback = true ∧
    ({ bound (readSlot 3) [] with cfg := { Config.reset with callers := [5] } } : State).callbackAdmitted (.user 5 true) = false :=
  ⟨bound_lowest _ _ rfl, by decide⟩

/-- A slot with no owner, which no rule produces (log 16). -/
theorem witness_IrqTxcompMatched_noOwner :
    (bound { readSlot 3 with owner := none } []).lowestBound 19 0 { readSlot 3 with owner := none } ∧
    ({ readSlot 3 with owner := none } : Slot).owner = none :=
  ⟨bound_lowest _ _ rfl, rfl⟩

theorem witness_IrqNoneMatched : (bound (readSlot 0) []).lowestBound 19 0 (readSlot 0) := bound_lowest _ _ rfl

theorem witness_IrqUnmatched : launch.unbound 20 := by
  intro y hy
  rw [List.eq_of_mem_replicate hy]
  decide

theorem witness_DmaAllocate :
    (∀ l ∈ [Label.mw1, .mr1], (standing opD l locD [0]).fg = .busy opD l locD) ∧ locD.d = 2 ∧
    (3 : Idx).toNat < Config.reset.nDmaCh ∧ (launch.chan 3).active = false := by decide

theorem witness_DmaWriteSetup :
    locD.d = 2 ∧ (2 : Idx).toNat < launch.descs.length ∧ locD.ch = some 0 ∧
    (standing opD .mw2 locD []).fg = .busy opD .mw2 locD := by decide

theorem witness_DmaReadSetup :
    locD.d = 2 ∧ (2 : Idx).toNat < launch.descs.length ∧ locD.ch = some 0 ∧
    (standing opD .mr2 locD [0]).fg = .busy opD .mr2 locD ∧ (standing opD .mr2 locD [0]).answerBit = false ∧
    (standing opD .mr2 locD [1]).answerBit = true := by decide

/-- A running channel whose source is a receive-holding register, at its first and last byte, and one that has moved all. -/
theorem witness_DmaByteMoves :
    (let s : State := { readChan 15 with inputs := [.dmaByte 1] };
      s.fault = none ∧ s.refused = none ∧ (s.chan 1).active = true ∧ (s.chan 1).started = true ∧
      (s.chan 1).moved.toNat < (s.chan 1).len.toNat ∧ (∃ b ∈ s.cfg.buses, b.rhr = (s.chan 1).src) ∧
      (∀ b ∈ s.cfg.buses, b.thr ≠ (s.chan 1).dst + 15)) ∧
    ¬ ((readChan 16).chan 1).moved.toNat < ((readChan 16).chan 1).len.toNat ∧
    (let s : State := { launch with
        chans := launch.chans.set 0 ⟨true, 2, .write, 0x20000400, 0x4001C034, true, false, 32, 31, true, true⟩, inputs := [.dmaByte 0] };
      s.fault = none ∧ s.refused = none ∧ (s.chan 0).active = true ∧ (s.chan 0).started = true ∧
      (s.chan 0).moved.toNat < (s.chan 0).len.toNat ∧ ¬ (∃ b ∈ s.cfg.buses, b.rhr = (s.chan 0).src + 31) ∧
      s.cfg.buses.length ≤ 256 ∧ 1 < s.cfg.buses.length ∧
      ∀ i z, s.cfg.buses[i]? = some z → (z.thr = (s.chan 0).dst ↔ i = 1)) := by
  refine ⟨by decide, by decide, by decide, by decide, by decide, by decide, by decide, by decide, by decide, by decide, ?_⟩
  intro i z h
  match i with
  | 0 => cases h; decide
  | 1 => cases h; decide
  | 2 => cases h; decide
  | k + 3 => simp [launch, State.launch, Config.reset] at h

theorem witness_DmaDoneCompletes :
    (readChan 16).callbackAdmitted ((readChan 16).desc 2).callback = true ∧ ((readChan 16).chan 1).desc = 2 ∧
    ({ readChan 16 with cfg := { Config.reset with callers := [5] } } : State).callbackAdmitted (.user 5 false) = false := by decide

theorem witness_DmaDoneCoherent :
    (readChan 16).cfg.wf = true ∧ (readChan 16).callbackAdmitted ((readChan 16).desc 2).callback = true ∧
    ((readChan 16).chan 1).dir = .read ∧ (0x20000800 : Word).toNat ≤ (0x2000080F : Word).toNat ∧
    (0x2000080F : Word).toNat < ((readChan 16).desc 2).regionAddr.toNat + ((readChan 16).desc 2).regionLen.toNat := by decide

theorem witness_FifoWriteStreams :
    launch.cfg.wf = true ∧ (standing opF .f1 locF [0, 0, 1]).fg = .busy opF .f1 locF ∧ locF.dir = .write ∧ locF.d = 3 := by decide

/-- R261: both bytes of a read that succeeds are drawn before the first is stored. -/
theorem test_fifo_read_draws_first :
    let x : Locals := { locF with dir := .read };
    ((after (exec opF (standing opF .f1 x [1, 0x11, 0x22, 0, 0]))).hist).drop 1 =
      [.choice 0x11, .choice 0x22, .choice 0, .cpuWrite 0x20000010 0x11, .choice 0, .cpuWrite 0x20000011 0x22] := by decide

theorem witness_FifoReadStreams :
    launch.cfg.wf = true ∧ Memory.wf launch.mem = true ∧ Cache.wf launch.cfg launch.cache = true ∧
    (standing opF .f1 { locF with dir := .read } [1, 0x11, 0x22, 0, 0]).fg = .busy opF .f1 { locF with dir := .read } ∧
    (0xFFFFFFFE : Word).toNat + (2 : Word).toNat ≤ 2 ^ 32 := by decide

theorem witness_FifoFailure :
    (standing opF .f2 locF [1]).fg = .busy opF .f2 locF ∧ locF.ok = false ∧ locF.d = 3 ∧ ({ locF with ok := true } : Locals).ok = true := by
  decide

theorem witness_AdapterFrames :
    (∃ t, exec opD (standing opD .mw3 locD []) = .next t) ∧ (∃ t, exec opF (standing opF .f4 locF []) = .next t) :=
  ⟨⟨_, rfl⟩, ⟨_, rfl⟩⟩

/-- A present and an absent line, the allocating and the other draw, and no cache. -/
theorem witness_CpuByteAccess :
    (let s : State := { readChan 0 with inputs := [.hostRead 0x2000081F] };
      s.fault = none ∧ s.refused = none ∧ s.cfg.wf = true ∧ Memory.wf s.mem = true ∧ Cache.wf s.cfg s.cache = true ∧
      s.cfg.dcacheEnabled = true ∧
      assocGet s.cache ((0x2000081F : Word).toNat - (0x2000081F : Word).toNat % s.cfg.cacheLine) =
        some ⟨.clean, List.replicate 32 0⟩) ∧
    assocGet launch.cache 0x20000800 = none ∧ (given [.hostWrite 0xFFFFFFFF 1] [1]).answerBit = true ∧
    (given [.hostWrite 0xFFFFFFFF 1] [0]).answerBit = false ∧ launch.line? 0xFFFFFFFF = none ∧ (readChan 0).line? 0x20000800 ≠ none ∧
    (let s : State := { given [.hostRead 0] [] with cfg := { Config.reset with dcacheEnabled := false } };
      s.cfg.wf = true ∧ Cache.wf s.cfg s.cache = true) := by decide

theorem witness_FillAndEvict :
    (let s : State := { readChan 0 with inputs := [.evict 0x20000800] };
      s.fault = none ∧ s.refused = none ∧ s.cfg.wf = true ∧ Memory.wf s.mem = true ∧ Cache.wf s.cfg s.cache = true ∧
      s.line? 0x20000800 ≠ none) ∧
    (given [.fill 0] []).line? 0 = none ∧ launch.cfg.dcacheEnabled = true ∧
    (let c : Cache := [(0x20000800, ⟨.dirty, List.replicate 32 7⟩), (0x20000820, ⟨.dirty, List.replicate 32 8⟩)];
      Cache.wf launch.cfg c = true ∧ ({ launch with cache := c } : State).line? 0x2000081F = some ⟨.dirty, List.replicate 32 7⟩ ∧
      0x20000820 ≠ (0x2000081F : Word).toNat - (0x2000081F : Word).toNat % launch.cfg.cacheLine) := by
  decide

/-- V-CACHE-1 to V-CACHE-4: a line that meets the range, the next one that does not, no byte, no cache. -/
theorem witness_CleanAndInvalidate :
    launch.cfg.wf = true ∧ Memory.wf launch.mem = true ∧
    Cache.wf launch.cfg [(0x20000400, ⟨.dirty, List.replicate 32 7⟩), (0x20000420, ⟨.dirty, List.replicate 32 7⟩)] = true ∧
    launch.cfg.dcacheEnabled = true ∧ (4 : Word) ≠ 0 ∧
    (0x20000400 < (0x20000410 : Word).toNat + (4 : Word).toNat ∧ (0x20000410 : Word).toNat < 0x20000400 + 32) ∧
    ¬ (0x20000420 < (0x20000410 : Word).toNat + (4 : Word).toNat) ∧
    ({ Config.reset with dcacheEnabled := false } : Config).dcacheEnabled = false := by decide

/-- The region of `n` bytes from `a` is clear of the stores among events: the second clause's two premises. -/
def clearOf (a n : Word) (es : List Event) : Bool :=
  es.all (fun e => match e with
    | .cpuWrite z _ => !meets launch.cfg a.toNat n.toNat (lineBase launch.cfg z.toNat)
    | .dmaWrite z _ => !(decide (a.toNat ≤ z.toNat) && decide (z.toNat < a.toNat + n.toNat))
    | _ => true)

/-- Over a clean line of the region: channel 0 sends the region's bytes, a polling read and an asynchronous one stand elsewhere. -/
def overRegion (inputs : List Input) : State :=
  { bound (readSlot 1) [7, 0] with
    fg := .busy opR .pr4 locR
    chans := launch.chans.set 0 ⟨true, 2, .write, 0x20000800, 0x40018034, true, false, 16, 3, true, true⟩
    cache := [(0x20000800, ⟨.clean, List.replicate 32 0⟩)]
    inputs := inputs }

/-- A set-up about to clean, and every kind of step of the second clause: a micro-step and an interrupt step that store, the DMA
engine's own, and the environment's and the host's, up to the line next to the region's. -/
theorem witness_DmaWriteCoherent :
    (launch.cfg.wf = true ∧ Memory.wf launch.mem = true ∧ Cache.wf launch.cfg launch.cache = true ∧ locD.d = 2 ∧
      (standing opD .mw4 locD []).fg = .busy opD .mw4 locD) ∧
    Cache.wf launch.cfg (overRegion []).cache = true ∧
    (∀ i ∈ [Input.foreground, .command [0x00001310], .dmaByte 0, .fill 0, .evict 0x20000800, .hostRead 0x20000800,
        .hostWrite 0x20000820 5],
      let t := after (step (overRegion [i]));
      t.inputs = [] ∧ clearOf 0x20000800 16 t.hist = true) ∧
    (after (step (overRegion [.foreground]))).hist.length = 3 ∧
    (after (step (overRegion [.dmaByte 0]))).hist = [.dmaRead 0x20000803 0, .dmaTx 0 0] ∧
    Event.cpuWrite 0x20001001 7 ∈ (after (step (overRegion [.command [0x00001310]]))).hist := by decide

/-- A storing micro-step, the clean at the byte after its region's last line, and a streaming write. -/
theorem witness_SubmitMemoryFrame :
    launch.cfg.wf = true ∧ launch.memOk ∧ (∃ t, exec opR (standing opR .pr4 locR [0x5A, 0]) = .next t) ∧
    (0x20000021 : Word) ≠ locR.buf + locR.i ∧
    (∃ t, exec opD ((standing opD .mw4 locD []).modifyDesc 2 (fun e => { e with regionAddr := 0x20000400, regionLen := 32 })) =
      .next t) ∧
    ¬ ((0x20000420 : Word).toNat - (0x20000420 : Word).toNat % launch.cfg.cacheLine <
      (0x20000400 : Word).toNat + (32 : Word).toNat) ∧
    (∃ t, exec opF (standing opF .f1 locF []) = .next t) ∧ locF.dir = .write :=
  ⟨by decide, ⟨by decide, by decide⟩, ⟨_, rfl⟩, by decide, ⟨_, rfl⟩, by decide, ⟨_, rfl⟩, rfl⟩

theorem witness_SubmitTableFrame :
    locA.d = 1 ∧ (∃ t, exec opA (standing opA .a1 locA []) = .next t) ∧ (0 : Idx) ≠ 1 :=
  ⟨rfl, ⟨_, rfl⟩, by decide⟩

/-- A try-lock that takes the lock, and a DEFAULT_CALLBACK that frees it. -/
theorem witness_LockDiscipline :
    (∃ t, (standing opW .s2 locW []).fgOk ∧ step (standing opW .s2 locW []) = .next t ∧
      ((standing opW .s2 locW []).desc 0).lock = false ∧ (t.desc 0).lock = true) ∧
    (let s : State := { held 1 with inputs := [.command [0x00000105]] };
      ∃ t, s.fgOk ∧ step s = .next t ∧ (s.desc 1).lock = true ∧ (t.desc 1).lock = false) :=
  ⟨⟨_, ⟨rfl, by decide, by decide, .inl rfl⟩, rfl, by decide, by decide⟩, ⟨_, trivial, rfl, by decide, by decide⟩⟩

theorem witness_RoundRobinIndex :
    ∃ t, step (standing opA .a1 locA []) = .next t ∧ (standing opA .a1 locA []).rr < launch.cfg.nSlots ∧ t.rr ≠ launch.rr :=
  ⟨_, rfl, by decide, by decide⟩

theorem witness_HazardsAndHistory :
    let s : State := { launch with hz := ⟨true, true, true, true⟩ };
    ∃ t, step s = .next t ∧ s.hz.slotOverrun = true ∧ s.hz.dupBinding = true ∧ s.hz.cbReplaced = true ∧ s.hz.unmatchedIrq = true :=
  ⟨_, rfl, rfl, rfl, rfl, rfl⟩

theorem witness_QuiescentRests :
    launch.quiescent = true ∧ launch.fault = none ∧ launch.refused = none ∧ launch.inputs = [] := by decide

theorem witness_LaunchState :
    launch.descs[3]? = some (Desc.launch ⟨1, 100000, .fifo, 50, 0x1A, 0x0010, 2⟩) ∧
    hostDescs[3]? = some ⟨1, 100000, .fifo, 50, 0x1A, 0x0010, 2⟩ := by decide

theorem witness_ResetInvariant :
    Config.reset.wf = true ∧ hostDescs.length = Config.reset.nDesc ∧ Memory.wf launch.mem = true := by decide

theorem witness_StepKeepsInvariant : ∃ t, (standing opW .s4 locW []).Inv ∧ step (standing opW .s4 locW []) = .next t := by
  refine ⟨_, ⟨by decide, ⟨by decide, by decide, by decide, by decide, by decide⟩, ⟨by decide, by decide⟩, ?_, ?_, ?_⟩, rfl⟩
  · intro y hy
    rw [List.eq_of_mem_replicate hy]
    exact .inl rfl
  · intro y hy
    rw [List.eq_of_mem_replicate hy]
    exact ⟨by decide, fun _ => rfl, by decide⟩
  · exact ⟨rfl, by decide, by decide, .inl rfl⟩

end Sys2Proof.Tests
end

section
/-! What the decoder reads from an operation's own words (30_encoding.md R91 to R95, R102, R103). -/

namespace Sys2Proof

/-- The words of a buffer operand are two, and are read back (R94). -/
theorem decodeBuffer_encodeBuffer (b : Option Buffer) :
    ∃ a n, encodeBuffer b = [a, n] ∧ decodeBuffer b.isSome a n = some b := by
  cases b with
  | none => exact ⟨_, _, rfl, rfl⟩
  | some b => exact ⟨_, _, rfl, rfl⟩

/-- A well-formed SUBMIT is read back from its words. -/
theorem decode_encode_submit {cfg : Config} {d : Idx} (hd : d.toNat < cfg.nDesc) (rx tx : Option Buffer) (cb : Callback)
    (args : Word) (rest : List Word) :
    decode cfg (encode (.submit d rx tx cb args) ++ rest) = .ok (.submit d rx tx cb args, rest) := by
  obtain ⟨ra, rn, hrx, hrx'⟩ := decodeBuffer_encodeBuffer rx
  obtain ⟨ta, tn, htx, htx'⟩ := decodeBuffer_encodeBuffer tx
  simp [encode, hrx, htx, decode, decodeSubmit, hd, hrx', htx']

/-- A well-formed operation is read back from its words, and the words after them are left. -/
theorem decode_encode {cfg : Config} {i : Instr} (h : i.wf cfg = true) (rest : List Word) :
    decode cfg (encode i ++ rest) = .ok (i, rest) := by
  cases i with
  | submit d rx tx cb args => exact decode_encode_submit (by simpa [Instr.wf] using h) rx tx cb args rest
  | configure d | isBusy d | waitUntilIdle d | defaultCallback d =>
    have hd : d.toNat < cfg.nDesc := by simpa [Instr.wf] using h
    simp [encode, decode, decodeDesc, hd]
  | irqRxrdy p | irqTxrdy p | irqTxcomp p | irqNone p =>
    have hp : cfg.knowsPid p = true := h
    simp [encode, decode, decodePid, hp]
  | dmaDone c =>
    have hc : c.toNat < cfg.nDmaCh := by simpa [Instr.wf] using h
    simp [encode, decode, decodeChan, hc]

/-- The shape of its words holds of every operation (R91, R102). -/
theorem encodeShape : ∀ i : Instr, Laws.EncodeShape.Statement i
  | .configure d => Laws.EncodeShape.configure d
  | .submit d rx tx cb args => Laws.EncodeShape.submit d rx tx cb args
  | .isBusy d => Laws.EncodeShape.isBusy d
  | .waitUntilIdle d => Laws.EncodeShape.waitUntilIdle d
  | .defaultCallback d => Laws.EncodeShape.defaultCallback d
  | .irqRxrdy p => Laws.EncodeShape.irqRxrdy p
  | .irqTxrdy p => Laws.EncodeShape.irqTxrdy p
  | .irqTxcomp p => Laws.EncodeShape.irqTxcomp p
  | .irqNone p => Laws.EncodeShape.irqNone p
  | .dmaDone c => Laws.EncodeShape.dmaDone c

/-- An operation has a first word. -/
theorem encode_ne_nil (i : Instr) : encode i ≠ [] := by
  obtain ⟨h, ws, he, -⟩ := encodeShape i
  simp [he]

end Sys2Proof
end

section
/-! The step by the head of the input (log 3), and when a command waits, is taken and is recorded (log 5, log 8, log 21). -/

namespace Sys2Proof.Machine

variable {s : State} {i : Instr} {op : Instr} {l : Label} {x : Locals} {ws rest : List Word} {more : List Input}

/-- Who issues a command is read from its opcode (30_encoding.md R92). -/
theorem hostIssues_of_code {h : Word} {o : Opcode} (ho : hdrOp h = o.code) : hostIssues h = o.foreground := by
  simp [hostIssues, ho]

/-- A foreground operation waits just while another is in progress, and an event never does. -/
theorem waitsForForeground_encode (s : State) (i : Instr) (rest : List Word) :
    s.waitsForForeground (encode i ++ rest) = (i.opcode.foreground && s.fg != .idle) := by
  obtain ⟨h, ws, he, -, ho, -⟩ := encodeShape i
  simp only [he, List.cons_append, State.waitsForForeground, hostIssues_of_code ho]

/-- A foreground operation may be issued only while FG is Idle (60_exceptions.md R300). -/
theorem fg_idle_of_mayIssue (hm : s.mayIssue i = true) (hf : i.opcode.foreground = true) : s.fg = .idle := by
  cases i with
  | configure _ | submit _ _ _ _ _ | isBusy _ | waitUntilIdle _ | defaultCallback _ => exact eq_of_beq hm
  | irqRxrdy _ | irqTxrdy _ | irqTxcomp _ | irqNone _ | dmaDone _ => exact absurd hf Bool.false_ne_true

/-- A command that may be issued does not wait. -/
theorem waitsForForeground_eq_false_of_mayIssue (hm : s.mayIssue i = true) (rest : List Word) :
    s.waitsForForeground (encode i ++ rest) = false := by
  rw [waitsForForeground_encode]
  cases hf : i.opcode.foreground with
  | false => rfl
  | true => simp [fg_idle_of_mayIssue hm hf]

/-- What taking a command changes: the input, where the words after the command stay as the next one. -/
theorem afterFetch_eq (hi : s.inputs = .command ws :: more) (rest : List Word) :
    s.afterFetch rest = { s with inputs := if rest = [] then more else .command rest :: more } := by
  unfold State.afterFetch State.popInput
  split <;> simp [hi]

theorem foregroundTurn_of_idle (h : s.fg = .idle) : foregroundTurn s = .next s := by
  simp only [foregroundTurn, h]

theorem foregroundTurn_of_busy (h : s.fg = .busy op l x) : foregroundTurn s = exec op s := by
  simp only [foregroundTurn, h]

/-- A command that may be issued is run. -/
theorem commandTurn_of_mayIssue (hw : i.wf s.cfg = true) (hm : s.mayIssue i = true) (rest : List Word) :
    commandTurn (encode i ++ rest) s = exec i ((s.afterFetch rest).drawEvent i) := by
  simp [commandTurn, encode_ne_nil, waitsForForeground_eq_false_of_mayIssue hm, decode_encode hw, hm]

/-- While an operation is in progress, a host command leaves the turn to the foreground. -/
theorem commandTurn_of_waits (hf : i.opcode.foreground = true) (hb : s.fg ≠ .idle) (rest : List Word) :
    commandTurn (encode i ++ rest) s = foregroundTurn s := by
  simp [commandTurn, encode_ne_nil, waitsForForeground_encode, hf, hb]

section
variable (hf : s.fault = none) (hr : s.refused = none)
include hf hr

theorem step_of_no_input (hi : s.inputs = []) : step s = foregroundTurn s := by
  simp only [step, hf, hr, hi]

theorem step_of_foreground_input (hi : s.inputs = .foreground :: more) :
    step s = foregroundTurn { s with inputs := more } := by
  simp only [step, hf, hr, hi, State.popInput, List.tail_cons]

theorem step_of_command (hi : s.inputs = .command ws :: more) : step s = commandTurn ws s := by
  simp only [step, hf, hr, hi]

end

end Sys2Proof.Machine
end

section
open Sys2Proof Sys2Proof.Machine

/-- Settles O5: `step` splits on the head of the input; a command that may be issued does not wait, and is read back from its own
words. -/
theorem stepRunsDecoded : Obligations.StepRunsDecoded := by
  intro s more hf hr
  refine ⟨fun i rest hi hw hm => ?issued, fun op l x hb => ⟨fun hi => ?noInput, fun hi => ?turn, fun i rest ho hi => ?waits⟩,
    fun hb hi => ?idle⟩
  case issued =>
    rw [step_of_command hf hr hi, commandTurn_of_mayIssue hw hm, drawEvent_eq, afterFetch_eq hi]
  case noInput => rw [step_of_no_input hf hr hi, foregroundTurn_of_busy hb]
  case turn => exact (step_of_foreground_input hf hr hi).trans (foregroundTurn_of_busy hb)
  case waits =>
    have hn : s.fg ≠ .idle := by simp [hb]
    rw [step_of_command hf hr hi, commandTurn_of_waits ho hn, foregroundTurn_of_busy hb]
  case idle => rw [step_of_no_input hf hr hi, foregroundTurn_of_idle hb]

end

section
/-! What an update of the state can write. `WritesOnly P s t` says that `t` comes from `s` by the model's updates, where a write of a part
whose writers the rules restrict (10_state.md R22, R24, R25, R27, R29, R30) is one that `P` admits. What a part's absence from `P` keeps is
proved once, by induction on the updates; each function of the model has one lemma about what it writes. -/

namespace Sys2Proof.Machine

/-- The parts of the state whose writers the rules restrict: FG, the lock of a descriptor (taken, freed), the descriptor fields the checks
of 41_dispatch.md R141 read, the slots, RR and the DMA channels. -/
inductive Part where
  | fg
  | take (d : Idx)
  | free (d : Idx)
  | target
  | slots
  | rr
  | chans

/-- The fields of a descriptor that the checks of 41_dispatch.md R141 read. -/
def Desc.target (e : Desc) : Idx × Target := (e.bus, ⟨e.slave, e.iaddr, e.isize⟩)

/-- The commands whose effect is on a DMA channel (30_encoding.md R100). -/
def Cmd.writesChan : Cmd → Bool
  | .dmaConfig _ _ _ _ _ _ | .dmaSetCallback _ | .dmaStart _ | .dmaFree _ => true
  | _ => false

/-- Every flag that is set stays set (10_state.md R33). -/
def Hazards.le (z z' : Hazards) : Prop :=
  (z.slotOverrun = true → z'.slotOverrun = true) ∧ (z.dupBinding = true → z'.dupBinding = true) ∧
  (z.cbReplaced = true → z'.cbReplaced = true) ∧ (z.unmatchedIrq = true → z'.unmatchedIrq = true)

theorem Hazards.le_refl (z : Hazards) : z.le z := ⟨id, id, id, id⟩

theorem Hazards.le_trans {a b c : Hazards} (h : a.le b) (h' : b.le c) : a.le c := by
  obtain ⟨h1, h2, h3, h4⟩ := h
  obtain ⟨h1', h2', h3', h4'⟩ := h'
  exact ⟨h1' ∘ h1, h2' ∘ h2, h3' ∘ h3, h4' ∘ h4⟩

/-- `t` comes from `s` by updates that write a restricted part only where `P` admits it. -/
inductive WritesOnly (P : Part → Prop) (s : State) : State → Prop
  | refl : WritesOnly P s s
  | record {u} (h : WritesOnly P s u) (e : Event) : WritesOnly P s (u.record e)
  | consume {u} (h : WritesOnly P s u) : WritesOnly P s u.consume
  | emit {u} (h : WritesOnly P s u) (c : Cmd) (hc : c.writesChan = true → P .chans) : WritesOnly P s (u.emit c)
  | fillLine {u} (h : WritesOnly P s u) (hd : u.cfg.dcacheEnabled = true) (a : Word) : WritesOnly P s (u.fillLine a.toNat)
  | evictLine {u} (h : WritesOnly P s u) (a : Nat) : WritesOnly P s (u.evictLine a)
  | store {u} (h : WritesOnly P s u) (a : Word) (v : Byte) : WritesOnly P s (u.store a v)
  | writeMem {u} (h : WritesOnly P s u) (a : Word) (v : Byte) :
    WritesOnly P s { u with mem := Memory.write u.mem a.toNat v }
  | modifyDesc {u} (h : WritesOnly P s u) (d : Idx) (f : Desc → Desc) (hl : ∀ e, (f e).lock = e.lock)
      (ht : (∀ e, (f e).target = e.target) ∨ P .target) : WritesOnly P s (u.modifyDesc d f)
  | takeLock {u} (h : WritesOnly P s u) (d : Idx) (hp : P (.take d)) : WritesOnly P s (u.takeLock d)
  | unlock {u} (h : WritesOnly P s u) (d : Idx) (hp : P (.free d)) : WritesOnly P s (u.unlock d)
  | modifySlot {u} (h : WritesOnly P s u) (k : Nat) (f : Slot → Slot) (hp : P .slots) : WritesOnly P s (u.modifySlot k f)
  | setRr {u} (h : WritesOnly P s u) (r : Nat) (hr : 0 < u.cfg.nSlots → r < u.cfg.nSlots) (hp : P .rr) :
    WritesOnly P s { u with rr := r }
  | modifyChan {u} (h : WritesOnly P s u) (c : Idx) (f : Chan → Chan) (hp : P .chans) : WritesOnly P s (u.modifyChan c f)
  | setHazards {u} (h : WritesOnly P s u) (z : Hazards) (hz : u.hz.le z) : WritesOnly P s { u with hz := z }
  | setFg {u} (h : WritesOnly P s u) (f : Fg) (hp : P .fg) : WritesOnly P s { u with fg := f }
  | setResult {u} (h : WritesOnly P s u) (r : Option Word) : WritesOnly P s { u with result := r }
  | setInputs {u} (h : WritesOnly P s u) (l : List Input) : WritesOnly P s { u with inputs := l }
  | raise {u} (h : WritesOnly P s u) (f : Fault) : WritesOnly P s (u.raise f)
  | refuse {u} (h : WritesOnly P s u) (r : Refusal) : WritesOnly P s (u.refuse r)

theorem perform_chans {c : Cmd} (hc : c.writesChan = false) (s : State) : (s.perform c).chans = s.chans := by
  cases c with
  | dmaConfig | dmaSetCallback | dmaStart | dmaFree => cases hc
  | cacheClean a n => simp only [State.perform, State.cleanRange]; split <;> rfl
  | cacheInvalidate a n => simp only [State.perform, State.invalidateRange]; split <;> rfl
  | _ => rfl

@[simp] theorem emit_chans_length (s : State) (c : Cmd) : (s.emit c).chans.length = s.chans.length := by
  cases c with
  | dmaConfig | dmaSetCallback | dmaStart | dmaFree => simp [State.emit, State.perform]
  | _ => exact congrArg List.length (perform_chans rfl _)

@[simp] theorem emit_ctl_length (s : State) (c : Cmd) : (s.emit c).ctl.length = s.ctl.length := by
  cases c with
  | cacheClean a n => simp only [State.emit, State.perform, State.cleanRange]; split <;> rfl
  | cacheInvalidate a n => simp only [State.emit, State.perform, State.invalidateRange]; split <;> rfl
  | _ => simp [State.emit, State.perform]

/-- The checks of 41_dispatch.md R141 read these fields and the parameters. -/
theorem descOk_of_target {s t : State} {d : Idx} (hc : t.cfg = s.cfg) (h : (t.desc d).target = (s.desc d).target) :
    t.descOk d = s.descOk d := by
  simp only [Desc.target, Prod.mk.injEq, Target.mk.injEq] at h
  obtain ⟨hb, hs, hi, hz⟩ := h
  exact descOk_congr d hc hb hs hi hz

/-- A try-lock leaves every other lock as it is. -/
theorem lock_takeLock_ne (s : State) {d d' : Idx} (h : d' ≠ d) : ((s.takeLock d).desc d').lock = (s.desc d').lock := by
  rw [State.takeLock, desc_modifyDesc_ne _ h]

theorem lock_unlock_ne (s : State) {d d' : Idx} (h : d' ≠ d) : ((s.unlock d).desc d').lock = (s.desc d').lock := by
  rw [State.unlock, desc_modifyDesc_ne _ h]

namespace WritesOnly

variable {P : Part → Prop} {s t : State}

/-! ### What is kept -/

theorem cfg_eq (h : WritesOnly P s t) : t.cfg = s.cfg := by
  induction h with
  | refl => rfl
  | _ => simp [*]

/-- The history only grows (10_state.md R36). -/
theorem hist_grows (h : WritesOnly P s t) : ∃ es, t.hist = s.hist ++ es := by
  induction h with
  | refl => exact ⟨[], by simp⟩
  | record _ e ih =>
    obtain ⟨es, ih⟩ := ih
    exact ⟨es ++ [e], by simp [ih]⟩
  | emit _ c _ ih =>
    obtain ⟨es, ih⟩ := ih
    exact ⟨es ++ [.cmd c], by simp [ih]⟩
  | _ => simpa

/-- No flag is cleared (10_state.md R33). -/
theorem hazards_grow (h : WritesOnly P s t) : s.hz.le t.hz := by
  induction h with
  | refl => exact Hazards.le_refl _
  | setHazards _ _ hz ih => exact Hazards.le_trans ih hz
  | _ => simpa

theorem rr_lt (h : WritesOnly P s t) (hs : s.rr < s.cfg.nSlots) : t.rr < t.cfg.nSlots := by
  induction h with
  | refl => exact hs
  | setRr _ _ hr _ ih => exact hr (Nat.zero_lt_of_lt ih)
  | _ => simpa

theorem rr_eq (h : WritesOnly P s t) (hP : ¬ P .rr) : t.rr = s.rr := by
  induction h with
  | refl => rfl
  | setRr _ _ _ hp => exact absurd hp hP
  | _ => simp [*]

theorem fg_eq (h : WritesOnly P s t) (hP : ¬ P .fg) : t.fg = s.fg := by
  induction h with
  | refl => rfl
  | setFg _ _ hp => exact absurd hp hP
  | _ => simp [*]

theorem slots_eq (h : WritesOnly P s t) (hP : ¬ P .slots) : t.slots = s.slots := by
  induction h with
  | refl => rfl
  | modifySlot _ _ _ hp => exact absurd hp hP
  | _ => simp [*]

theorem chans_eq (h : WritesOnly P s t) (hP : ¬ P .chans) : t.chans = s.chans := by
  induction h with
  | refl => rfl
  | modifyChan _ _ _ hp => exact absurd hp hP
  | emit _ c hc ih => exact (perform_chans (by simpa using mt hc hP) _).trans ih
  | _ => simp [*]

theorem target_eq (h : WritesOnly P s t) (hP : ¬ P .target) (d : Idx) : (t.desc d).target = (s.desc d).target := by
  induction h with
  | refl => rfl
  | modifyDesc _ d' f _ ht ih => rw [desc_modifyDesc_field _ _ _ Desc.target (ht.resolve_right hP), ih]
  | takeLock _ d' _ ih | unlock _ d' _ ih => rw [← ih]; exact desc_modifyDesc_field _ d' d Desc.target (fun _ => rfl)
  | _ => simpa [State.desc]

theorem descOk_eq (h : WritesOnly P s t) (hP : ¬ P .target) (d : Idx) : t.descOk d = s.descOk d :=
  descOk_of_target h.cfg_eq (h.target_eq hP d)

/-- A lock that no update may take stays free (10_state.md R25). -/
theorem lock_stays_free {d : Idx} (h : WritesOnly P s t) (hP : ¬ P (.take d)) (hs : (s.desc d).lock = false) :
    (t.desc d).lock = false := by
  induction h with
  | refl => exact hs
  | modifyDesc _ d' f hl _ ih => rw [desc_modifyDesc_field _ _ _ Desc.lock hl, ih]
  | takeLock _ d' hp ih => rwa [lock_takeLock_ne _ (by rintro rfl; exact hP hp)]
  | unlock _ d' _ ih =>
    by_cases e : d = d'
    · rw [e]; exact desc_unlock_lock _ _
    · rwa [lock_unlock_ne _ e]
  | _ => simpa [State.desc]

/-- A lock that no update may free stays held (10_state.md R25). -/
theorem lock_stays_held {d : Idx} (h : WritesOnly P s t) (hP : ¬ P (.free d)) (hs : (s.desc d).lock = true) :
    (t.desc d).lock = true := by
  induction h with
  | refl => exact hs
  | modifyDesc _ d' f hl _ ih => rw [desc_modifyDesc_field _ _ _ Desc.lock hl, ih]
  | unlock _ d' hp ih => rwa [lock_unlock_ne _ (by rintro rfl; exact hP hp)]
  | takeLock _ d' _ ih =>
    by_cases e : d = d'
    · subst e; rw [State.takeLock, desc_modifyDesc_same _ (lt_of_lock ih)]
    · rwa [lock_takeLock_ne _ e]
  | _ => simpa [State.desc]

/-- The tables keep their sizes (10_state.md R23, R26, R30, R31). -/
theorem lengths_eq (h : WritesOnly P s t) :
    t.descs.length = s.descs.length ∧ t.slots.length = s.slots.length ∧ t.chans.length = s.chans.length ∧
    t.ctl.length = s.ctl.length := by
  induction h with
  | refl => exact ⟨rfl, rfl, rfl, rfl⟩
  | _ => simpa [State.takeLock, State.unlock]

theorem sized (h : WritesOnly P s t) (hs : s.sized) : t.sized := by
  obtain ⟨hd, hk, hc, hb⟩ := h.lengths_eq
  obtain ⟨sd, sk, sc, sb, sr⟩ := hs
  refine ⟨?_, ?_, ?_, ?_, h.rr_lt sr⟩ <;> simp only [hd, hk, hc, hb, sd, sk, sc, sb, h.cfg_eq]

/-- Memory and cache keep their canonical forms (20_memory.md R60, R65). -/
theorem memOk (h : WritesOnly P s t) (hw : s.cfg.wf = true) (hs : s.memOk) : t.memOk := by
  induction h with
  | refl => exact hs
  | emit h c _ ih => exact memOk_emit (by rw [h.cfg_eq]; exact Config.wf_line hw) c ih
  | fillLine _ hd a ih => exact memOk_fillLine hd a.isLt ih
  | evictLine h a ih => exact memOk_evictLine (by rw [h.cfg_eq]; exact Config.wf_line hw) a ih
  | store _ a v ih => exact memOk_store a v ih
  | writeMem _ a v ih => exact ⟨Memory.wf_write ih.1 a.isLt, ih.2⟩
  | _ => exact memOk_of_eq ‹_› rfl rfl rfl

end WritesOnly
end Sys2Proof.Machine
end

section
/-! What each function of the model writes, from the shared operations up to one `exec` and one `step`. -/

namespace Sys2Proof.Machine

namespace WritesOnly

variable {P : Part → Prop} {s u : State}

/-! ### The shared operations -/

theorem choose (h : WritesOnly P s u) : WritesOnly P s u.choose := h.consume.record _

theorem drawByte (h : WritesOnly P s u) : WritesOnly P s u.drawByte := h.consume.record _

theorem allocate (h : WritesOnly P s u) (a : Word) : WritesOnly P s (u.allocate a) := by
  unfold State.allocate
  split
  · rename_i hc
    split
    · exact h.choose.fillLine (Bool.and_eq_true _ _ ▸ hc).1 a
    · exact h.choose
  · exact h

theorem cpuRead (h : WritesOnly P s u) (a : Word) : WritesOnly P s (u.cpuRead a) := (h.allocate a).record _

theorem cpuWrite (h : WritesOnly P s u) (a : Word) (v : Byte) : WritesOnly P s (u.cpuWrite a v) :=
  ((h.allocate a).store a v).record _

theorem dmaRead (h : WritesOnly P s u) (a : Word) : WritesOnly P s (u.dmaRead a) := by
  unfold State.dmaRead
  split
  · exact h.consume.record _
  · exact h.record _

theorem dmaWrite (h : WritesOnly P s u) (a : Word) (v : Byte) : WritesOnly P s (u.dmaWrite a v) := by
  unfold State.dmaWrite
  split
  · exact h.record _
  · exact (h.writeMem a v).record _

/-- A command that is none of a DMA channel's writes no restricted part. -/
theorem command (h : WritesOnly P s u) (c : Cmd) (hc : c.writesChan = false := by rfl) : WritesOnly P s (u.emit c) :=
  h.emit c (by simp [hc])

/-- A write of other descriptor fields than the lock and the checked ones writes no restricted part. -/
theorem frameDesc (h : WritesOnly P s u) (d : Idx) (f : Desc → Desc) (hl : ∀ e, (f e).lock = e.lock := by intro; rfl)
    (ht : ∀ e, (f e).target = e.target := by intro; rfl) : WritesOnly P s (u.modifyDesc d f) :=
  h.modifyDesc d f hl (.inl ht)

theorem askNack (h : WritesOnly P s u) (b : Idx) : WritesOnly P s (u.askNack b) := h.consume.command _
theorem askByte (h : WritesOnly P s u) (b : Idx) : WritesOnly P s (u.askByte b) := h.consume.command _
theorem askTxrdy (h : WritesOnly P s u) (b : Idx) (t : Word) : WritesOnly P s (u.askTxrdy b t) := h.consume.command _
theorem askRxrdy (h : WritesOnly P s u) (b : Idx) (t : Word) : WritesOnly P s (u.askRxrdy b t) := h.consume.command _
theorem askTxcomp (h : WritesOnly P s u) (b : Idx) (t : Word) : WritesOnly P s (u.askTxcomp b t) := h.consume.command _

theorem goto (h : WritesOnly P s u) (hf : P .fg) (op : Instr) (l : Label) (x : Locals) : WritesOnly P s (u.goto op l x) :=
  h.setFg _ hf

theorem engineReturn (h : WritesOnly P s u) (hf : P .fg) (op : Instr) (x : Locals) (st : Status) :
    WritesOnly P s (u.engineReturn op x st) := h.setFg _ hf

theorem finish (h : WritesOnly P s u) (hf : P .fg) (o : Opcode) (r : Option Word) : WritesOnly P s (u.finish o r) :=
  ((h.setFg .idle hf).setResult r).record _

/-- A callback may free the lock of the descriptor it is passed (40_config.md R127). -/
theorem invokeCallback (h : WritesOnly P s u) (cb : Callback) (d : Idx) (args : Word) (hd : P (.free d)) :
    WritesOnly P s (u.invokeCallback cb d args) := by
  unfold State.invokeCallback
  split
  · exact h
  · exact (h.command _).unlock d hd
  · split
    · exact (h.command _).unlock d hd
    · exact h.command _

theorem markCbReplaced (h : WritesOnly P s u) (d : Idx) : WritesOnly P s (u.markCbReplaced d) :=
  h.setHazards _ (by simp +contextual [Hazards.le])

theorem markOverrun (h : WritesOnly P s u) (k : Nat) : WritesOnly P s (u.markOverrun k) :=
  h.setHazards _ (by simp +contextual [Hazards.le])

theorem markDup (h : WritesOnly P s u) (k : Nat) (p : Idx) : WritesOnly P s (u.markDup k p) :=
  h.setHazards _ (by simp +contextual [Hazards.le])

theorem markUnmatched (h : WritesOnly P s u) : WritesOnly P s u.markUnmatched :=
  h.setHazards _ (by simp +contextual [Hazards.le])

theorem drawEvent (h : WritesOnly P s u) (i : Instr) : WritesOnly P s (u.drawEvent i) := by
  unfold State.drawEvent
  split
  · exact h
  · exact h.record _

theorem fifoReads (n : Nat) (a : Word) (h : WritesOnly P s u) : WritesOnly P s (fifoReads n a u) := by
  induction n generalizing a u with
  | zero => exact h
  | succ n ih => exact ih _ (h.cpuRead a)

theorem fifoDraws (n : Nat) (h : WritesOnly P s u) : WritesOnly P s (fifoDraws n u).2 := by
  induction n generalizing u with
  | zero => exact h
  | succ n ih => exact ih h.drawByte

theorem fifoWrites (vs : List Byte) (a : Word) (h : WritesOnly P s u) : WritesOnly P s (fifoWrites vs a u) := by
  induction vs generalizing a u with
  | nil => exact h
  | cons v vs ih => exact ih _ (h.cpuWrite a v)

theorem fifoReplaces (n : Nat) (a : Word) (h : WritesOnly P s u) : WritesOnly P s (fifoReplaces n a u) := by
  induction n generalizing a u with
  | zero => exact h
  | succ n ih =>
    refine ih _ ?_
    split
    · exact h.choose.drawByte.cpuWrite a _
    · exact h.choose

theorem fifoStores (ok : Bool) (n : Nat) (a : Word) (h : WritesOnly P s u) : WritesOnly P s (fifoStores ok n a u) := by
  unfold Machine.fifoStores
  split
  · exact (h.fifoDraws n).fifoWrites _ a
  · exact h.fifoReplaces n a

end WritesOnly

/-! ### The micro-steps of the foreground -/

/-- The restricted parts, beside FG, that a micro-step of SUBMIT may write: S2 takes its descriptor's lock (41_dispatch.md R143), the error
path of S9 (R150) and the synchronous completions (42_polling.md R168) free it, A1 writes the slots and RR (43_async.md R190), and the DMA
adapter its channel (44_dma.md R232, R233). -/
def Label.parts (x : Locals) : Label → Part → Prop
  | .s2, w => w = .take x.d
  | .s9, w => w = .free x.d ∧ x.st ≠ .success
  | .pw11, w | .pr10, w | .f4, w => w = .free x.d
  | .a1, w => w = .slots ∨ w = .rr
  | .mw1, w | .mw3, w | .mw5, w | .mw6, w | .mr1, w | .mr3, w | .mr5, w | .mr6, w | .mr7, w => w = .chans
  | _, _ => False

section Submit
variable {P : Part → Prop} {s u : State} (hu : WritesOnly P s u) (hf : P .fg) (op : Instr) (x : Locals)
include hu hf

theorem transferComplete_writesOnly (ready : Label) : WritesOnly P s (transferComplete ready op x u) := by
  unfold transferComplete
  split
  · exact (hu.askTxcomp _ _).goto hf _ _ _
  · exact (hu.askTxcomp _ _).goto hf _ _ _

theorem completeSync_writesOnly (hd : P (.free x.d)) : WritesOnly P s (completeSync op x u) := by
  unfold completeSync
  split
  · exact ((hu.invokeCallback _ _ _ hd).unlock _ hd).engineReturn hf _ _ _
  · exact hu.refuse _

theorem asyncA1_writesOnly (hs : P .slots) (hr : P .rr) : WritesOnly P s (asyncA1 op x u) := by
  have bind (k : Nat) {v : State} (hv : WritesOnly P s v) : WritesOnly P s ((bindSlot k x v).goto op .a2 { x with slot := some k }) :=
    ((hv.markDup _ _).modifySlot _ _ hs).goto hf _ _ _
  unfold asyncA1 allocSlot
  cases u.cfg.slotPolicy with
  | overwrite => exact bind _ ((hu.markOverrun _).setRr _ (Nat.mod_lt _) hr)
  | failFast =>
    cases u.scanSlot with
    | none => exact hu.engineReturn hf _ _ _
    | some k => exact bind _ (hu.setRr _ (Nat.mod_lt _) hr)

theorem dmaM1_writesOnly (next : Label) (hc : P .chans) : WritesOnly P s (dmaM1 next op x u) := by
  unfold dmaM1
  split
  · exact ((hu.consume.command _).modifyChan _ _ hc).goto hf _ _ _
  · exact (hu.consume.command _).raise _

theorem configC1_writesOnly : WritesOnly P s (configC1 op x u) := by
  unfold configC1
  split
  · exact (hu.frameDesc _ _).goto hf _ _ _
  · exact hu.goto hf _ _ _

theorem configC2_writesOnly : WritesOnly P s (configC2 op x u) := (hu.command _).goto hf _ _ _

theorem configC3_writesOnly : WritesOnly P s (configC3 op x u) := (hu.command _).goto hf _ _ _

theorem configC4_writesOnly (next : Label) : WritesOnly P s (configC4 next op x u) := by
  unfold configC4
  split
  · exact (hu.command _).goto hf _ _ _
  · exact hu.goto hf _ _ _

/-- A micro-step of SUBMIT writes FG and its label's parts. -/
theorem submitMicro_writesOnly (rx tx : Option Buffer) (cb : Callback) (args : Word) (l : Label)
    (hl : ∀ w, l.parts x w → P w) : WritesOnly P s (submitMicro rx tx cb args op x u l) := by
  cases l with
  | c1 => exact configC1_writesOnly hu hf op x
  | c2 => exact configC2_writesOnly hu hf op x
  | c3 => exact configC3_writesOnly hu hf op x
  | c4 => exact configC4_writesOnly hu hf op x .s9
  | c5 | w1 => exact hu
  | s1 => exact ((hu.markCbReplaced _).frameDesc _ _).goto hf _ _ _
  | s2 =>
    have ht : WritesOnly P s (u.takeLock x.d) := hu.takeLock _ (hl _ rfl)
    simp only [submitMicro, submitS2]
    split
    · exact ht.finish hf _ _
    · exact ht.goto hf _ _ _
  | s3 =>
    simp only [submitMicro, submitS3]
    split
    · exact hu.goto hf _ _ _
    · split
      · exact hu.engineReturn hf _ _ _
      · exact hu.refuse _
  | s4 =>
    simp only [submitMicro, submitS4]
    split
    · exact hu.refuse _
    · exact hu.goto hf _ _ _
  | s5 =>
    simp only [submitMicro, submitS5]
    split
    · exact hu.goto hf _ _ _
    · exact hu.refuse _
  | s9 =>
    simp only [submitMicro, submitS9]
    split
    · exact hu.finish hf _ _
    · rename_i hst
      exact (hu.unlock _ (hl _ ⟨rfl, hst⟩)).finish hf _ _
  | s6 | pw4 | pw5 | pr2 | a6 | mw7 | mr8 => exact hu.goto hf _ _ _
  | pw1 | a4w | pw8 => exact ((hu.cpuRead _).command _).goto hf _ _ _
  | pw2 | pw9 =>
    simp only [submitMicro, pollW2, pollW9]
    split
    · exact (hu.command _).goto hf _ _ _
    · exact hu.goto hf _ _ _
  | pw3 | pw7 | pr5 =>
    simp only [submitMicro, pollW3, pollW7, pollR5]
    split
    · exact (hu.askNack _).engineReturn hf _ _ _
    · exact (hu.askNack _).goto hf _ _ _
  | pw6 =>
    simp only [submitMicro, pollW6]
    split
    · exact (hu.askTxrdy _ _).goto hf _ _ _
    · exact (hu.askTxrdy _ _).goto hf _ _ _
  | pr3 | pr7 =>
    simp only [submitMicro, pollR3, pollR7]
    split
    · exact (hu.askRxrdy _ _).goto hf _ _ _
    · exact (hu.askRxrdy _ _).goto hf _ _ _
  | pr4 => exact ((hu.askByte _).cpuWrite _ _).goto hf _ _ _
  | pr8 =>
    simp only [submitMicro, pollR8]
    split
    · exact ((hu.askByte _).choose.cpuWrite _ _).goto hf _ _ _
    · exact ((hu.askByte _).cpuWrite _ _).goto hf _ _ _
  | pw10 => exact transferComplete_writesOnly hu hf op x .pw11
  | pr9 => exact transferComplete_writesOnly hu hf op x .pr10
  | f3 => exact transferComplete_writesOnly hu hf op x .f4
  | pw11 | pr10 | f4 => exact completeSync_writesOnly hu hf op x (hl _ rfl)
  | pr1 | pr6 | a2 | a3 | a5w | a4r | a5r | mw4 | mr4 => exact (hu.command _).goto hf _ _ _
  | a1 => exact asyncA1_writesOnly hu hf op x (hl _ (.inl rfl)) (hl _ (.inr rfl))
  | mw1 => exact dmaM1_writesOnly hu hf op x .mw2 (hl _ rfl)
  | mr1 => exact dmaM1_writesOnly hu hf op x .mr2 (hl _ rfl)
  | mw2 | mr2 => exact (hu.frameDesc _ _).goto hf _ _ _
  | mw3 | mw5 | mw6 | mr3 | mr5 | mr7 => exact (hu.emit _ fun _ => hl _ rfl).goto hf _ _ _
  | mr6 =>
    simp only [submitMicro, dmaM6r]
    split
    · exact (((hu.askNack _).emit _ fun _ => hl _ rfl).frameDesc _ _).engineReturn hf _ _ _
    · exact (hu.askNack _).goto hf _ _ _
  | f1 =>
    simp only [submitMicro, fifoF1]
    split
    · exact ((hu.fifoReads _ _).consume.command _).goto hf _ _ _
    · exact ((hu.consume.command _).fifoStores _ _ _).goto hf _ _ _
  | f2 =>
    simp only [submitMicro, fifoF2]
    split
    · exact hu.goto hf _ _ _
    · exact hu.choose.engineReturn hf _ _ _

end Submit

/-! ### One `exec` -/

/-- The restricted parts one `exec` of an operation may write while FG is `f`. -/
def execParts (f : Fg) : Instr → Part → Prop
  | .configure _, w | .isBusy _, w | .waitUntilIdle _, w => w = .fg
  | .submit _ _ _ _ _, w => w = .fg ∨ ∃ op l x, f = .busy op l x ∧ l.parts x w
  | .defaultCallback d, w => w = .fg ∨ w = .free d
  | .irqRxrdy _, w | .irqTxrdy _, w => w = .slots
  | .irqTxcomp _, w => w = .slots ∨ ∃ d, w = .free d
  | .irqNone _, _ => False
  | .dmaDone _, w => w = .chans ∨ ∃ d, w = .free d

section Exec
variable {P : Part → Prop} {s u : State} (hu : WritesOnly P s u)
include hu

theorem unmatchedIrq_writesOnly (p : Idx) : WritesOnly P s (unmatchedIrq p u) := (hu.command _).markUnmatched

theorem rxrdyMatched_writesOnly (k : Nat) (hs : P .slots) : WritesOnly P s (rxrdyMatched k u) := by
  have moved (v : Byte) (b : Idx) (a : Word) : WritesOnly P s (((u.askByte b).cpuWrite a v).modifySlot k Slot.advance) :=
    ((hu.askByte b).cpuWrite a v).modifySlot _ _ hs
  have ended (v : Byte) (b : Idx) (a : Word) := ((moved v b a).command (.intDisable b evRxrdy)).command (.intEnable b evTxcomp)
  simp only [rxrdyMatched]
  split
  · split
    · split
      · exact (ended _ _ _).command _
      · exact (moved _ _ _).command _
    · split
      · exact ended _ _ _
      · exact moved _ _ _
  · exact (hu.askByte _).raise _

theorem txrdyMatched_writesOnly (k : Nat) (hs : P .slots) : WritesOnly P s (txrdyMatched k u) := by
  simp only [txrdyMatched]
  split
  · exact ((hu.command _).command _).command _
  · split
    · exact ((hu.cpuRead _).command _).modifySlot _ _ hs
    · exact hu.raise _

theorem txcompMatched_writesOnly (p : Idx) (k : Nat) (hs : P .slots) (hd : ∀ d, P (.free d)) :
    WritesOnly P s (txcompMatched p k u) := by
  simp only [txcompMatched]
  split
  · split
    · refine .modifySlot ?_ _ _ hs
      split
      · exact (((hu.command _).command _).invokeCallback _ _ _ (hd _)).unlock _ (hd _)
      · exact ((hu.command _).command _).invokeCallback _ _ _ (hd _)
    · exact hu.refuse _
  · exact hu.raise _

theorem doneStep_writesOnly (c : Idx) (hc : P .chans) (hd : ∀ d, P (.free d)) : WritesOnly P s (doneStep c u) := by
  have freed {v : State} (hv : WritesOnly P s v) (cb : Callback) (d : Idx) (args : Word) :=
    (hv.invokeCallback cb d args (hd d)).emit (.dmaFree c) fun _ => hc
  simp only [doneStep]
  split
  · refine .frameDesc ?_ _ _
    cases (u.chan c).dir with
    | read =>
      split
      · exact (freed (hu.command _) _ _ _).unlock _ (hd _)
      · exact freed (hu.command _) _ _ _
    | write =>
      split
      · exact (freed hu _ _ _).unlock _ (hd _)
      · exact freed hu _ _ _
  · exact hu.refuse _

theorem waitW1_writesOnly (hf : P .fg) (d : Idx) (x : Locals) : WritesOnly P s (waitW1 d x u) := by
  unfold waitW1
  split
  · exact hu.goto hf _ _ _
  · exact hu.finish hf _ _

theorem configC0_writesOnly (hf : P .fg) (d : Idx) : WritesOnly P s (configC0 d u) := by
  unfold configC0
  split
  · exact hu.goto hf _ _ _
  · exact hu.refuse _

theorem submitS0_writesOnly (hf : P .fg) (op : Instr) (d : Idx) : WritesOnly P s (submitS0 op d u) := by
  unfold submitS0
  split
  · exact hu.goto hf _ _ _
  · exact hu.refuse _

/-- One `exec` writes its operation's parts. -/
theorem exec_writesOnly {t : State} {i : Instr} (hP : ∀ w, execParts u.fg i w → P w) (h : exec i u = .next t) :
    WritesOnly P s t := by
  cases i with
  | configure d =>
    have hf := hP _ rfl
    obtain ⟨-, rfl⟩ | ⟨l, x, -, ⟨-, rfl⟩ | ⟨-, rfl⟩ | ⟨-, rfl⟩ | ⟨-, rfl⟩ | ⟨-, rfl⟩⟩ := exec_configure_cases h
    · exact configC0_writesOnly hu hf d
    · exact configC1_writesOnly hu hf _ x
    · exact configC2_writesOnly hu hf _ x
    · exact configC3_writesOnly hu hf _ x
    · exact configC4_writesOnly hu hf _ x .c5
    · exact hu.finish hf _ _
  | submit d rx tx cb args =>
    have hf := hP _ (.inl rfl)
    obtain ⟨-, rfl⟩ | ⟨l, x, hb, -, -, rfl⟩ := exec_submit_cases h
    · exact submitS0_writesOnly hu hf _ d
    · exact submitMicro_writesOnly hu hf _ x rx tx cb args l (fun w hw => hP w (.inr ⟨_, l, x, hb, hw⟩))
  | isBusy d =>
    obtain ⟨-, rfl⟩ := exec_isBusy_cases h
    exact hu.finish (hP _ rfl) _ _
  | waitUntilIdle d =>
    obtain ⟨-, rfl⟩ | ⟨x, -, rfl⟩ := exec_waitUntilIdle_cases h
    · exact waitW1_writesOnly hu (hP _ rfl) d _
    · exact waitW1_writesOnly hu (hP _ rfl) d x
  | defaultCallback d =>
    obtain ⟨-, rfl⟩ := exec_defaultCallback_cases h
    exact (hu.unlock d (hP _ (.inr rfl))).finish (hP _ (.inl rfl)) _ _
  | irqRxrdy p =>
    rw [exec_irqRxrdy] at h
    cases h
    split
    · exact rxrdyMatched_writesOnly hu _ (hP _ rfl)
    · exact unmatchedIrq_writesOnly hu p
  | irqTxrdy p =>
    rw [exec_irqTxrdy] at h
    cases h
    split
    · exact txrdyMatched_writesOnly hu _ (hP _ rfl)
    · exact unmatchedIrq_writesOnly hu p
  | irqTxcomp p =>
    rw [exec_irqTxcomp] at h
    cases h
    split
    · exact txcompMatched_writesOnly hu p _ (hP _ (.inl rfl)) (fun d => hP _ (.inr ⟨d, rfl⟩))
    · exact unmatchedIrq_writesOnly hu p
  | irqNone p =>
    rw [exec_irqNone] at h
    cases h
    split
    · exact hu
    · exact unmatchedIrq_writesOnly hu p
  | dmaDone c =>
    rw [exec_dmaDone] at h
    cases h
    exact doneStep_writesOnly hu c (hP _ (.inl rfl)) (fun d => hP _ (.inr ⟨d, rfl⟩))

/-! ### One step -/

theorem dmaByteStep_writesOnly (c : Idx) (hc : P .chans) : WritesOnly P s (dmaByteStep c u) := by
  simp only [dmaByteStep]
  split
  · exact ((hu.dmaRead _).dmaWrite _ _).modifyChan _ _ hc
  · exact hu

theorem envFill_writesOnly (a : Word) : WritesOnly P s (envFill a u) := by
  unfold envFill
  split
  · rename_i hc
    exact hu.fillLine (Bool.and_eq_true _ _ ▸ hc).1 a
  · exact hu

theorem envEvict_writesOnly (a : Word) : WritesOnly P s (envEvict a u) := by
  unfold envEvict
  split
  · exact hu.evictLine _
  · exact hu

theorem hostWriteDesc_writesOnly (d : Idx) (h : HostDesc) (ht : P .target) : WritesOnly P s (hostWriteDesc d h u) :=
  hu.modifyDesc _ _ (fun _ => rfl) (.inr ht)

end Exec

/-- The turns that write a restricted part: an operation in progress, a command that is issued, a byte step of the DMA engine
(44_dma.md R238), and the host's write of a descriptor while FG is Idle (10_state.md R24). -/
inductive StepPart (s : State) (w : Part) : Prop
  | foreground (op : Instr) (l : Label) (x : Locals) (hf : s.fg = .busy op l x) (hw : execParts s.fg op w)
  | command (ws : List Word) (more : List Input) (i : Instr) (rest : List Word) (hi : s.inputs = .command ws :: more)
      (hd : decode s.cfg ws = .ok (i, rest)) (hm : s.mayIssue i = true) (hw : execParts s.fg i w)
  | dmaByte (hw : w = .chans)
  | hostDesc (hf : s.fg = .idle) (hw : w = .target)

/-- One step writes the restricted parts of its turn only. -/
theorem step_writesOnly {s t : State} (h : step s = .next t) : WritesOnly (StepPart s) s t := by
  obtain ⟨-, -, l, hk⟩ := step_cases h
  have h0 : WritesOnly (StepPart s) s { s with inputs := l } := WritesOnly.refl.setInputs l
  cases hk with
  | foreground op l x hf h => exact exec_writesOnly h0 (fun w hw => .foreground op l x hf hw) h
  | command ws more i rest hi hd hm h =>
    exact exec_writesOnly (h0.drawEvent i) (fun w hw => .command ws more i rest hi hd hm (by simpa using hw)) h
  | refused r h => exact h ▸ h0.refuse r
  | rest h => exact h ▸ h0
  | dmaByte c _ _ h => exact h ▸ dmaByteStep_writesOnly h0 c (.dmaByte rfl)
  | fill a _ _ h => exact h ▸ envFill_writesOnly h0 a
  | evict a _ _ h => exact h ▸ envEvict_writesOnly h0 a
  | hostDesc d hd hf h => exact h ▸ hostWriteDesc_writesOnly h0 d hd (.hostDesc hf rfl)
  | hostRead a _ _ h => exact h ▸ h0.cpuRead a
  | hostWrite a v _ _ h => exact h ▸ h0.cpuWrite a v

/-! ### Who writes RR and the locks -/

variable {s : State} {w : Part}

theorem label_of_rr {l : Label} {x : Locals} (h : l.parts x .rr) : l = .a1 := by
  cases l <;> simp [Label.parts] at h ⊢

theorem label_of_take {l : Label} {x : Locals} {d : Idx} (h : l.parts x (.take d)) : l = .s2 ∧ x.d = d := by
  cases l <;> simp [Label.parts] at h ⊢
  exact h.symm

theorem label_of_free {l : Label} {x : Locals} {d : Idx} (h : l.parts x (.free d)) :
    x.d = d ∧ (l ∈ [Label.pw11, .pr10, .f4] ∨ l = .s9 ∧ x.st ≠ .success) := by
  cases l <;> simp [Label.parts] at h ⊢
  case s9 => exact h.imp_left Eq.symm
  all_goals exact h.symm

/-- RR and a lock's taking are written by a micro-step of the SUBMIT in progress only. -/
theorem StepPart.submit (h : StepPart s w) (hw : w = .rr ∨ ∃ d, w = .take d) :
    ∃ d rx tx cb args l x, s.fg = .busy (.submit d rx tx cb args) l x ∧ l.parts x w := by
  have key {f : Fg} {i : Instr} (hp : execParts f i w) :
      (∃ d rx tx cb args, i = .submit d rx tx cb args) ∧ ∃ op l x, f = .busy op l x ∧ l.parts x w := by
    cases i with
    | submit d rx tx cb args =>
      refine ⟨⟨d, rx, tx, cb, args, rfl⟩, hp.resolve_left ?_⟩
      rintro rfl
      simp at hw
    | _ => obtain rfl | ⟨d, rfl⟩ := hw <;> simp [execParts] at hp
  cases h with
  | foreground op l x hf hp =>
    obtain ⟨⟨d, rx, tx, cb, args, rfl⟩, op', l', x', hf', hl⟩ := key hp
    obtain ⟨rfl, rfl, rfl⟩ := Fg.busy.inj (hf.symm.trans hf')
    exact ⟨d, rx, tx, cb, args, l, x, hf, hl⟩
  | command ws more i rest hi hd hm hp =>
    obtain ⟨⟨d, rx, tx, cb, args, rfl⟩, op', l', x', hf', -⟩ := key hp
    rw [fg_idle_of_mayIssue hm rfl] at hf'
    cases hf'
  | dmaByte hp | hostDesc _ hp => obtain rfl | ⟨d, rfl⟩ := hw <;> cases hp

/-- With FG at a legal position, a lock is freed by a micro-step of the SUBMIT in progress, by the default callback, or by one of the two
interrupt completions. -/
theorem StepPart.free {d : Idx} (hs : s.fgOk) (h : StepPart s (.free d)) :
    (∃ d' rx tx cb args l x, s.fg = .busy (.submit d' rx tx cb args) l x ∧ l.parts x (.free d)) ∨
    ∃ ws more i rest, s.inputs = .command ws :: more ∧ decode s.cfg ws = .ok (i, rest) ∧
      (i = .defaultCallback d ∨ (∃ p, i = .irqTxcomp p) ∨ ∃ c, i = .dmaDone c) := by
  cases h with
  | foreground op l x hf hp =>
    simp only [State.fgOk, hf] at hs
    cases op with
    | submit d' rx tx cb args =>
      obtain hp | ⟨op', l', x', hf', hl⟩ := hp
      · cases hp
      · obtain ⟨rfl, rfl, rfl⟩ := Fg.busy.inj (hf.symm.trans hf')
        exact .inl ⟨d', rx, tx, cb, args, l, x, hf, hl⟩
    | configure | waitUntilIdle => cases hp
    | _ => exact hs.elim
  | command ws more i rest hi hd hm hp =>
    refine .inr ⟨ws, more, i, rest, hi, hd, ?_⟩
    cases i with
    | submit =>
      rw [fg_idle_of_mayIssue hm rfl] at hp
      simp [execParts] at hp
    | _ => simp_all [execParts]
  | dmaByte hp | hostDesc _ hp => cases hp

/-- A SUBMIT in progress works on its own descriptor. -/
theorem submit_desc_of_fgOk {d : Idx} {rx tx : Option Buffer} {cb : Callback} {args : Word} {l : Label} {x : Locals}
    (hs : s.fgOk) (hf : s.fg = .busy (.submit d rx tx cb args) l x) : x.d = d := by
  simp only [State.fgOk, hf] at hs
  exact hs.1

end Sys2Proof.Machine
end

section
/-! What the decoder admits is well-formed (30_encoding.md R93, R103). -/

namespace Sys2Proof

variable {cfg : Config} {h : Word} {rest rest' : List Word} {i : Instr}

theorem wf_of_decodeDesc {mk : Idx → Instr} (hmk : ∀ d, (mk d).wf cfg = decide (d.toNat < cfg.nDesc))
    (hd : decodeDesc cfg h mk rest = .ok (i, rest')) : i.wf cfg = true := by
  unfold decodeDesc at hd
  split at hd
  · cases hd
    simpa [hmk]
  · cases hd

theorem wf_of_decodePid {mk : Idx → Instr} (hmk : ∀ p, (mk p).wf cfg = cfg.knowsPid p)
    (hd : decodePid cfg h mk rest = .ok (i, rest')) : i.wf cfg = true := by
  unfold decodePid at hd
  split at hd
  · cases hd
    simpa [hmk]
  · cases hd

theorem wf_of_decodeSubmit (hd : decodeSubmit cfg h rest = .ok (i, rest')) : i.wf cfg = true := by
  unfold decodeSubmit at hd
  split at hd
  · split at hd
    · split at hd
      · cases hd
        simpa [Instr.wf]
      · cases hd
    · cases hd
  · split at hd <;> cases hd

theorem wf_of_decode {ws : List Word} (hd : decode cfg ws = .ok (i, rest)) : i.wf cfg = true := by
  cases ws with
  | nil => cases hd
  | cons h ws =>
    simp only [decode] at hd
    split at hd
    · cases hd
    · rename_i o _
      split at hd
      · cases hd
      · split at hd
        · cases hd
        · cases o with
          | configure | isBusy | waitUntilIdle | defaultCallback => exact wf_of_decodeDesc (fun _ => rfl) hd
          | submit => exact wf_of_decodeSubmit hd
          | irqRxrdy | irqTxrdy | irqTxcomp | irqNone => exact wf_of_decodePid (fun _ => rfl) hd
          | dmaDone =>
            simp only [decodeChan] at hd
            split at hd
            · cases hd
              simpa [Instr.wf]
            · cases hd

end Sys2Proof
end

section
/-! The invariant's clause about the slots: what A1 binds is whole, a byte moved keeps a slot whole, and a completion frees it
(43_async.md R193, R198 to R200). -/

namespace Sys2Proof.Machine

/-- A property of every entry is kept by a change of one that keeps it. -/
theorem forall_mem_modify {α : Type} {p : α → Prop} {l : List α} {n : Nat} {f : α → α} (hl : ∀ a ∈ l, p a)
    (hf : ∀ a, l[n]? = some a → p (f a)) : ∀ a ∈ l.modify n f, p a := by
  intro a ha
  obtain ha | ⟨b, hb, rfl⟩ := mem_modify ha
  · exact hl a ha
  · exact hf b hb

variable {cfg : Config} {y : Slot} {s : State} {k : Nat} {p : Idx}

theorem Slot.bound_of_ok (h : y.ok cfg) (hp : y.pid = some p) : y.bound cfg :=
  h.resolve_left (by simp [Slot.free, hp])

theorem Slot.bufEnd_le (y : Slot) : y.bufEnd ≤ 2 ^ 32 := by
  have := y.bufHi.isLt
  unfold Slot.bufEnd
  split <;> omega

/-- A buffer ends at the top of memory only with another start than 0 (log 15). -/
theorem Slot.bufLo_ne_of_top (h : y.bufEnd = 2 ^ 32) : y.bufLo.toNat ≠ 0 := by
  have := y.bufHi.isLt
  unfold Slot.bufEnd at h
  split at h
  · rename_i hc
    exact fun h0 => hc.2 (BitVec.eq_of_toNat_eq h0)
  · omega

/-- A receive inside the buffer has a byte left to move (43_async.md R202). -/
theorem Slot.transferred_lt_of_inBuffer (h : y.bound cfg) (hin : y.inBuffer = true) :
    y.transferred.toNat < y.size.toNat := by
  obtain ⟨p, a, o, -, ha, -, -, -, -, -, -, -, hptr⟩ := h
  simp only [Slot.inBuffer, ha, Bool.and_eq_true, decide_eq_true_eq] at hin
  obtain ⟨hge, hlt⟩ := hin
  by_contra hn
  have hend : a.toNat = y.bufEnd % 2 ^ 32 := by rw [hptr]; congr 1; omega
  have htop := y.bufEnd_le
  by_cases hb : y.bufEnd = 2 ^ 32
  · have := Slot.bufLo_ne_of_top hb
    omega
  · omega

/-- A byte moved keeps a bound slot whole: its pointer stays in step with its count. -/
theorem Slot.bound_advance (h : y.bound cfg) (hlt : y.transferred.toNat < y.size.toNat) : y.advance.bound cfg := by
  obtain ⟨p, a, o, hp, ha, ho, hd, hb, hpid, h1, -, hlo, hptr⟩ := h
  have hsize := y.size.isLt
  have ht : (y.transferred + 1).toNat = y.transferred.toNat + 1 := by
    rw [BitVec.toNat_add_of_lt] <;> simp
    omega
  have ha1 : (a + 1).toNat = (a.toNat + 1) % 2 ^ 32 := by simp
  refine ⟨p, a + 1, o, hp, by simp [Slot.advance, ha], ho, hd, hb, hpid, h1, ?moved, ?room, ?pointer⟩
  case moved =>
    show (y.transferred + 1).toNat ≤ y.size.toNat
    omega
  case room =>
    show y.bufLo.toNat + (y.size.toNat - (y.transferred + 1).toNat) ≤ y.bufEnd
    omega
  case pointer =>
    show (a + 1).toNat = (y.bufEnd - (y.size.toNat - (y.transferred + 1).toNat)) % 2 ^ 32
    omega

/-- What A1 binds is whole: the descriptor has passed S0's checks, the buffer S4's, and the transfer has at least two bytes
(41_dispatch.md R141, R144, R145; 43_async.md R193). -/
theorem bindSlot_slots_ok {x : Locals} {u : State} (hs : ∀ y ∈ u.slots, Slot.ok u.cfg y) (hd : x.d.toNat < u.cfg.nDesc)
    (hb : (u.desc x.d).bus.toNat < u.cfg.buses.length) (h0 : x.len ≠ 0) (h1 : x.len ≠ 1)
    (htop : x.buf.toNat + x.len.toNat ≤ 2 ^ 32) : ∀ y ∈ (bindSlot k x u).slots, Slot.ok u.cfg y := by
  refine forall_mem_modify hs fun y _ => .inr ⟨_, _, x.d, rfl, rfl, rfl, hd, hb, rfl, ?_⟩
  have n0 : x.len.toNat ≠ 0 := fun h => h0 (BitVec.eq_of_toNat_eq h)
  have n1 : x.len.toNat ≠ 1 := fun h => h1 (BitVec.eq_of_toNat_eq h)
  have hz : (0 : Word).toNat = 0 := rfl
  rw [bufEnd_of_bounds rfl rfl h0 htop]
  cases x.dir with
  | write =>
    have hn : (x.len - 1).toNat = x.len.toNat - 1 := by
      rw [BitVec.toNat_sub_of_le] <;> simp [BitVec.le_def]
      omega
    have ha : (x.buf + 1).toNat = (x.buf.toNat + 1) % 2 ^ 32 := by simp
    simp only [hn, ha, hz]
    omega
  | read =>
    simp only [hz]
    omega

theorem asyncA1_slots_ok {op : Instr} {x : Locals} (hs : ∀ y ∈ s.slots, Slot.ok s.cfg y) (hd : x.d.toNat < s.cfg.nDesc)
    (hb : (s.desc x.d).bus.toNat < s.cfg.buses.length) (h0 : x.len ≠ 0) (h1 : x.len ≠ 1)
    (htop : x.buf.toNat + x.len.toNat ≤ 2 ^ 32) : ∀ y ∈ (asyncA1 op x s).slots, Slot.ok s.cfg y := by
  unfold asyncA1 allocSlot
  cases s.cfg.slotPolicy with
  | overwrite => exact bindSlot_slots_ok (u := { s.markOverrun s.rr with rr := _ }) hs hd hb h0 h1 htop
  | failFast =>
    cases s.scanSlot with
    | none => exact hs
    | some k => exact bindSlot_slots_ok (u := { s with rr := _ }) hs hd hb h0 h1 htop

section Matched
variable (hs : ∀ y ∈ s.slots, Slot.ok s.cfg y) (hm : s.matchSlot p = some k)
include hs hm

/-- A matched slot is a whole one of the table. -/
theorem bound_of_matchSlot : s.slots[k]? = some (s.slot k) ∧ (s.slot k).bound s.cfg := by
  obtain ⟨hk, hp, -⟩ := lowest_of_matchSlot hm
  exact ⟨hk, Slot.bound_of_ok (hs _ (List.mem_of_getElem? hk)) hp⟩

/-- Moving a byte through the matched slot keeps every slot whole. -/
theorem slots_ok_advance (hlt : (s.slot k).transferred.toNat < (s.slot k).size.toNat) :
    ∀ y ∈ s.slots.modify k Slot.advance, Slot.ok s.cfg y := by
  obtain ⟨hk, hb⟩ := bound_of_matchSlot hs hm
  refine forall_mem_modify hs fun y hy => .inr ?_
  obtain rfl := Option.some.inj (hk.symm.trans hy)
  exact Slot.bound_advance hb hlt

theorem rxrdyMatched_slots_ok : ∀ y ∈ (rxrdyMatched k s).slots, Slot.ok s.cfg y := by
  obtain ⟨-, hb⟩ := bound_of_matchSlot hs hm
  simp only [rxrdyMatched]
  split
  · rename_i hin
    have hadv := slots_ok_advance hs hm (Slot.transferred_lt_of_inBuffer hb hin)
    split <;> split <;> simpa using hadv
  · exact hs

theorem txrdyMatched_slots_ok : ∀ y ∈ (txrdyMatched k s).slots, Slot.ok s.cfg y := by
  obtain ⟨-, hb⟩ := bound_of_matchSlot hs hm
  simp only [txrdyMatched]
  split
  · simpa using hs
  · rename_i hne
    obtain ⟨_, _, _, -, -, -, -, -, -, -, hle, -⟩ := hb
    have hlt := lt_of_le_of_ne hle (mt BitVec.eq_of_toNat_eq hne)
    split
    · simpa using slots_ok_advance hs hm hlt
    · exact hs

omit hm in
theorem txcompMatched_slots_ok : ∀ y ∈ (txcompMatched p k s).slots, Slot.ok s.cfg y := by
  have freed : ∀ y ∈ s.slots.modify k (fun z => { z with ptr := none, pid := none }), Slot.ok s.cfg y :=
    forall_mem_modify hs fun _ _ => .inl rfl
  simp only [txcompMatched]
  split
  · split
    · split <;> simpa using freed
    · exact hs
  · exact hs

end Matched

end Sys2Proof.Machine
end

section
/-! The invariant's clause about the DMA channels (10_state.md R30; 44_dma.md R231 to R240), and the channel the adapter holds. -/

namespace Sys2Proof.Machine

variable {s t : State} {c : Idx} {x : Locals} {op : Instr}

theorem emit_chans {cmd : Cmd} (hc : cmd.writesChan = false) (s : State) : (s.emit cmd).chans = s.chans :=
  perform_chans hc _

theorem emit_dmaFree_chans (s : State) (c : Idx) :
    (s.emit (.dmaFree c)).chans = s.chans.modify c.toNat (fun y => { y with active := false }) := rfl

/-- A change that keeps what `g` reads keeps it in every channel. -/
theorem chan_modifyChan_field {β : Type} (s : State) (c c' : Idx) {f : Chan → Chan} (g : Chan → β) (h : ∀ y, g (f y) = g y) :
    g ((s.modifyChan c f).chan c') = g (s.chan c') := by
  by_cases hc : c' = c
  · subst hc
    by_cases hl : c'.toNat < s.chans.length
    · rw [chan_modifyChan_same f hl, h]
    · simp [State.chan, List.getD_eq_getElem?_getD, hl]
  · rw [chan_modifyChan_ne f hc]

/-- What `State.holdsChannel` reads of a channel. -/
def Chan.holding (y : Chan) : Bool × Idx × Bool := (y.active, y.desc, y.started)

theorem holdsChannel_of_holding (hc : t.cfg = s.cfg) (h : ∀ c, (t.chan c).holding = (s.chan c).holding)
    (hx : s.holdsChannel x) : t.holdsChannel x := by
  obtain ⟨c, hch, hlt, ha, hd, hst⟩ := hx
  have he := h c
  simp only [Chan.holding, Prod.mk.injEq] at he
  obtain ⟨h1, h2, h3⟩ := he
  exact ⟨c, hch, hc ▸ hlt, h1.trans ha, h2.trans hd, h3.trans hst⟩

/-- A change of a started channel is none of a held one. -/
theorem holdsChannel_of_started {f : Chan → Chan} (hc : t.cfg = s.cfg) (ht : t.chans = s.chans.modify c.toNat f)
    (hst : (s.chan c).started = true) (hx : s.holdsChannel x) : t.holdsChannel x := by
  obtain ⟨c', hch, hlt, ha, hd, hns⟩ := hx
  have hne : c' ≠ c := by
    rintro rfl
    rw [hns] at hst
    cases hst
  have he : t.chan c' = s.chan c' := (chan_congr (s := s.modifyChan c f) ht c').trans (chan_modifyChan_ne f hne)
  exact ⟨c', hch, hc ▸ hlt, he ▸ ha, he ▸ hd, he ▸ hns⟩

/-- A channel that is drawn exists and is inactive (44_dma.md R231). -/
theorem lt_of_answerChan (hn : s.cfg.nDmaCh ≤ 256) (h : s.answerChan = some c) : c.toNat < s.cfg.nDmaCh := by
  simp only [State.answerChan] at h
  split at h
  · rename_i ha
    cases h
    rw [BitVec.toNat_ofNat, Nat.mod_eq_of_lt (by omega)]
    exact ha.1
  · cases h

section Ok
variable (hs : ∀ y ∈ s.chans, Chan.ok s.cfg y)
include hs

theorem dmaM1_chans_ok (next : Label) (hd : x.d.toNat < s.cfg.nDesc) : ∀ y ∈ (dmaM1 next op x s).chans, Chan.ok s.cfg y := by
  simp only [dmaM1]
  split
  · exact forall_mem_modify hs fun y _ => ⟨Nat.zero_le _, fun _ => rfl, hd⟩
  · exact hs

/-- The adapter configures a channel that has not moved a byte (44_dma.md R232, R233). -/
theorem dmaConfig_chans_ok (hx : s.holdsChannel x) (src dst : Word) (sinc dinc : Bool) (len : Word) :
    ∀ y ∈ (s.emit (.dmaConfig x.chan src sinc dst dinc len)).chans, Chan.ok s.cfg y := by
  obtain ⟨c, hch, -, -, -, hst⟩ := hx
  refine forall_mem_modify hs fun y hy => ?_
  have hc : x.chan = c := by simp [Locals.chan, hch]
  obtain rfl : s.chan c = y := chan_of_getElem? (hc ▸ hy)
  obtain ⟨-, hmoved, hd⟩ := hs _ (List.mem_of_getElem? hy)
  have h0 := hmoved hst
  exact ⟨by simp [h0], fun _ => h0, hd⟩

theorem dmaSetCallback_chans_ok (c : Idx) : ∀ y ∈ (s.emit (.dmaSetCallback c)).chans, Chan.ok s.cfg y :=
  forall_mem_modify hs fun y hy => hs y (List.mem_of_getElem? hy)

theorem dmaFree_chans_ok (c : Idx) : ∀ y ∈ (s.emit (.dmaFree c)).chans, Chan.ok s.cfg y :=
  forall_mem_modify hs fun y hy => hs y (List.mem_of_getElem? hy)

theorem dmaStart_chans_ok (c : Idx) : ∀ y ∈ (s.emit (.dmaStart c)).chans, Chan.ok s.cfg y := by
  refine forall_mem_modify hs fun y hy => ?_
  obtain ⟨hle, -, hd⟩ := hs y (List.mem_of_getElem? hy)
  exact ⟨hle, nofun, hd⟩

end Ok

/-- A completion frees its channel, or is refused (44_dma.md R240). -/
theorem doneStep_chans (c : Idx) (s : State) :
    (doneStep c s).chans = s.chans ∨ (doneStep c s).chans = s.chans.modify c.toNat (fun y => { y with active := false }) := by
  simp only [doneStep]
  split
  · right
    cases (s.chan c).dir with
    | read => split <;> simp [emit_dmaFree_chans, emit_chans (cmd := .cacheInvalidate _ _) rfl]
    | write => split <;> simp [emit_dmaFree_chans]
  · exact .inl rfl

theorem dmaByteStep_chans (c : Idx) (s : State) :
    (dmaByteStep c s).chans = s.chans ∨
    (s.chan c).running = true ∧ (dmaByteStep c s).chans = s.chans.modify c.toNat (fun y => { y with moved := y.moved + 1 }) := by
  simp only [dmaByteStep]
  split
  · rename_i hr
    exact .inr ⟨hr, by simp⟩
  · exact .inl rfl

end Sys2Proof.Machine
end

section
/-! The invariant's clause about FG: where each micro-step leaves it, with the facts the steps before have checked (41_dispatch.md R141, R144,
R145; 44_dma.md R231). -/

namespace Sys2Proof.Machine

variable {s t : State} {op : Instr} {d : Idx} {l : Label} {x : Locals}

/-- The buffer that S4 has checked (41_dispatch.md R144). -/
def Locals.buffered (x : Locals) : Prop := x.len ≠ 0 ∧ x.buf.toNat + x.len.toNat ≤ 2 ^ 32

/-- What a SUBMIT's label asks of its working values: nothing in the selector; the checked buffer, and at some labels more, in an engine. -/
def State.placed (s : State) (l : Label) (x : Locals) : Prop :=
  l.ofSelector = true ∨
    (l.ofEngine = true ∧ x.len ≠ 0 ∧ x.buf.toNat + x.len.toNat ≤ 2 ^ 32 ∧
      (l = .s6 ∧ x.eff = .async → x.len ≠ 1) ∧ (l = .a1 → x.len ≠ 1) ∧ (l.holdsChannel = true → s.holdsChannel x))

/-- The labels of an engine that ask for the checked buffer only. -/
def Label.plain (l : Label) : Bool := l.ofEngine && l != .s6 && l != .a1 && !l.holdsChannel

theorem fgOk_of_idle (h : s.fg = .idle) : s.fgOk := by simp [State.fgOk, h]

theorem fgOk_submit {rx tx : Option Buffer} {cb : Callback} {args : Word} (h : s.fg = .busy (.submit d rx tx cb args) l x) :
    s.fgOk ↔ x.d = d ∧ d.toNat < s.cfg.nDesc ∧ s.descOk d = true ∧ s.placed l x := by
  simp only [State.fgOk, h, State.placed]

theorem fgOk_configure (h : s.fg = .busy (.configure d) l x) :
    s.fgOk ↔ l.ofConfigure = true ∧ x.d = d ∧ d.toNat < s.cfg.nDesc ∧ s.descOk d = true := by
  simp only [State.fgOk, h]

theorem fgOk_waitUntilIdle (h : s.fg = .busy (.waitUntilIdle d) l x) :
    s.fgOk ↔ l = .w1 ∧ x.d = d ∧ d.toNat < s.cfg.nDesc := by
  simp only [State.fgOk, h]

/-- A step that leaves FG, the checked descriptor fields and the held channel as they are keeps FG's clause. -/
theorem fgOk_of_fg_eq (hfg : t.fg = s.fg) (hcfg : t.cfg = s.cfg) (hd : ∀ d, t.descOk d = s.descOk d)
    (hc : ∀ x, s.holdsChannel x → t.holdsChannel x) (hs : s.fgOk) : t.fgOk := by
  cases hb : s.fg with
  | idle => exact fgOk_of_idle (hfg.trans hb)
  | busy op l x =>
    cases op with
    | configure d => rwa [fgOk_configure (hfg.trans hb), hcfg, hd, ← fgOk_configure hb]
    | waitUntilIdle d => rwa [fgOk_waitUntilIdle (hfg.trans hb), hcfg, ← fgOk_waitUntilIdle hb]
    | submit d rx tx cb args =>
      rw [fgOk_submit hb] at hs
      obtain ⟨hx, hlt, hok, hp⟩ := hs
      rw [fgOk_submit (hfg.trans hb), hcfg, hd]
      refine ⟨hx, hlt, hok, hp.imp_right ?_⟩
      rintro ⟨he, h0, htop, h6, h1, hh⟩
      exact ⟨he, h0, htop, h6, h1, fun hl => hc x (hh hl)⟩
    | _ => simp [State.fgOk, hb] at hs

theorem placed_of_plain (hl : l.plain = true) (hb : x.buffered) : s.placed l x := by
  simp only [Label.plain, Bool.and_eq_true, bne_iff_ne, Bool.not_eq_true'] at hl
  obtain ⟨⟨⟨he, h6⟩, h1⟩, hh⟩ := hl
  exact .inr ⟨he, hb.1, hb.2, fun h => absurd h.1 h6, fun h => absurd h h1, fun h => by simp [hh] at h⟩

theorem ofEngine_of_holdsChannel (hl : l.holdsChannel = true) : l.ofEngine = true ∧ l ≠ .s6 ∧ l ≠ .a1 := by
  cases l <;> simp [Label.holdsChannel, Label.ofEngine] at hl ⊢

/-- A label between M1 and the start of the channel asks for the held channel too. -/
theorem placed_of_holds (hl : l.holdsChannel = true) (hb : x.buffered) (hh : s.holdsChannel x) : s.placed l x := by
  obtain ⟨he, h6, h1⟩ := ofEngine_of_holdsChannel hl
  exact .inr ⟨he, hb.1, hb.2, fun h => absurd h.1 h6, fun h => absurd h h1, fun _ => hh⟩

/-- What is known at an engine's label. -/
theorem placed_engine (hp : s.placed l x) (hl : l.ofSelector = false) :
    x.buffered ∧ (l = .s6 ∧ x.eff = .async → x.len ≠ 1) ∧ (l = .a1 → x.len ≠ 1) ∧
    (l.holdsChannel = true → s.holdsChannel x) := by
  obtain ⟨-, h0, htop, h6, h1, hh⟩ := hp.resolve_left (by simp [hl])
  exact ⟨⟨h0, htop⟩, h6, h1, hh⟩

/-- Where a micro-step of SUBMIT leaves FG: Idle, or at a label of the operation that asks for no more than is known. -/
inductive Onward (op : Instr) (d : Idx) (t : State) : Prop
  | idle (h : t.fg = .idle)
  | stands (l : Label) (x : Locals) (h : t.fg = .busy op l x) (hd : x.d = d) (hp : t.placed l x)

/-- S4 lets a nonempty buffer inside the address space through (41_dispatch.md R144). -/
theorem buffered_of_bufferRefusal {cfg : Config} (h : bufferRefusal cfg x.buf x.len = none) : x.buffered := by
  unfold bufferRefusal at h
  split at h
  · cases h
  · rename_i h0
    split at h
    · cases h
    · exact ⟨h0, by omega⟩

/-- An asynchronous transfer has at least two bytes (41_dispatch.md R145). -/
theorem len_ne_one_of_effective {cfg : Config} {st : Strategy} {b : Idx} {len : Word} (h : effective cfg st b len = some .async) :
    len ≠ 1 := by
  cases st with
  | async =>
    rintro rfl
    simp [effective] at h
  | polling => cases h
  | dma | fifo =>
    simp only [effective] at h
    split at h <;> cases h

theorem transferComplete_onward {ready : Label} (hl : ready.plain = true) (hb : x.buffered) :
    Onward op x.d (transferComplete ready op x s) := by
  unfold transferComplete
  split
  · exact .stands .c1 _ rfl rfl (.inl rfl)
  · exact .stands ready x rfl rfl (placed_of_plain hl hb)

theorem completeSync_onward (hf : s.fg = .busy op l x) (hp : s.placed l x) : Onward op x.d (completeSync op x s) := by
  unfold completeSync
  split
  · exact .stands .s9 _ rfl rfl (.inl rfl)
  · exact .stands l x hf rfl hp

theorem asyncA1_onward (hb : x.buffered) : Onward op x.d (asyncA1 op x s) := by
  unfold asyncA1
  split
  · exact .stands .a2 _ rfl rfl (placed_of_plain rfl hb)
  · exact .stands .s9 _ rfl rfl (.inl rfl)

/-- M1 takes an existing channel for the descriptor, not started, or raises the fault at its own label (44_dma.md R231). -/
theorem dmaM1_onward {next : Label} (hf : s.fg = .busy op l x) (hp : s.placed l x) (hsz : s.chans.length = s.cfg.nDmaCh)
    (hn : s.cfg.nDmaCh ≤ 256) (hl : next.holdsChannel = true) (hb : x.buffered) : Onward op x.d (dmaM1 next op x s) := by
  simp only [dmaM1]
  split
  · rename_i c hc
    have hlt := lt_of_answerChan hn hc
    refine .stands next _ rfl rfl (placed_of_holds hl hb ⟨c, rfl, hlt, ?_⟩)
    have he := chan_modifyChan_same (s := s) (fun y : Chan =>
      { y with active := true, desc := x.d, dir := x.dir, moved := 0, cbSet := false, started := false }) (hsz ▸ hlt)
    exact ⟨congrArg Chan.active he, congrArg Chan.desc he, congrArg Chan.started he⟩
  · exact .stands l x hf rfl hp

/-- The engine's first label (41_dispatch.md R149). -/
theorem engineLabel_placed (hb : x.buffered) (h6 : x.eff = .async → x.len ≠ 1) : s.placed (engineLabel x.eff x.dir) x := by
  cases he : x.eff with
  | async => exact .inr ⟨rfl, hb.1, hb.2, nofun, fun _ => h6 he, nofun⟩
  | polling | dma => cases x.dir <;> exact placed_of_plain rfl hb
  | fifo => exact placed_of_plain rfl hb

/-- The adapter's next label, after an update that keeps what holding a channel means. -/
theorem holds_onward {next : Label} (hb : x.buffered) (hh : s.holdsChannel x) (hl : next.holdsChannel = true)
    (ht : t.fg = .busy op next x) (hcfg : t.cfg = s.cfg) (hc : ∀ c, (t.chan c).holding = (s.chan c).holding) :
    Onward op x.d t :=
  .stands next x ht rfl (placed_of_holds hl hb (holdsChannel_of_holding hcfg hc hh))

theorem submitMicro_onward {rx tx : Option Buffer} {cb : Callback} {args : Word} (hf : s.fg = .busy op l x)
    (hp : s.placed l x) (hsz : s.chans.length = s.cfg.nDmaCh) (hn : s.cfg.nDmaCh ≤ 256) :
    Onward op x.d (submitMicro rx tx cb args op x s l) := by
  have selector {t : State} {l' : Label} {x' : Locals} (h : t.fg = .busy op l' x') (hd : x'.d = x.d)
      (hl : l'.ofSelector = true) : Onward op x.d t := .stands l' x' h hd (.inl hl)
  cases l with
  | c5 | w1 => exact .stands _ x hf rfl hp
  | c1 | c2 | c3 | c4 | s1 => exact selector rfl rfl rfl
  | s2 =>
    simp only [submitMicro, submitS2]
    split
    · exact .idle rfl
    · exact selector rfl rfl rfl
  | s3 =>
    simp only [submitMicro, submitS3]
    split
    · exact selector rfl rfl rfl
    · split
      · exact selector rfl rfl rfl
      · exact .stands _ x hf rfl hp
  | s4 =>
    simp only [submitMicro, submitS4]
    split
    · exact .stands _ x hf rfl hp
    · rename_i hr
      exact .stands _ x rfl rfl (placed_of_plain rfl (buffered_of_bufferRefusal hr))
  | s9 => exact .idle rfl
  | s5 =>
    obtain ⟨hb, -⟩ := placed_engine hp rfl
    simp only [submitMicro, submitS5]
    split
    · rename_i e he
      exact .stands .s6 _ rfl rfl
        (.inr ⟨rfl, hb.1, hb.2, fun ⟨_, hea⟩ => len_ne_one_of_effective (he.trans (congrArg some hea)), nofun, nofun⟩)
    · exact .stands _ x hf rfl hp
  | s6 =>
    obtain ⟨hb, h6, -⟩ := placed_engine hp rfl
    exact .stands _ x rfl rfl (engineLabel_placed hb fun he => h6 ⟨rfl, he⟩)
  | pw1 | pw2 | pw4 | pw8 | pw9 | pr1 | pr4 | pr6 | pr8 | a2 | a4w | a5w | a4r | a5r =>
    obtain ⟨hb, -⟩ := placed_engine hp rfl
    exact .stands _ _ rfl rfl (placed_of_plain rfl hb)
  | pw3 | pw7 | pr5 =>
    obtain ⟨hb, -⟩ := placed_engine hp rfl
    simp only [submitMicro, pollW3, pollW7, pollR5]
    split
    · exact selector rfl rfl rfl
    · exact .stands _ _ rfl rfl (placed_of_plain rfl hb)
  | pw5 | pr2 =>
    obtain ⟨hb, -⟩ := placed_engine hp rfl
    simp only [submitMicro, pollW5, pollR2]
    split <;> exact .stands _ _ rfl rfl (placed_of_plain rfl hb)
  | pw6 | pr3 | pr7 =>
    obtain ⟨hb, -⟩ := placed_engine hp rfl
    simp only [submitMicro, pollW6, pollR3, pollR7]
    split <;> exact .stands _ _ rfl rfl (placed_of_plain rfl hb)
  | a3 =>
    obtain ⟨hb, -⟩ := placed_engine hp rfl
    refine .stands _ _ rfl rfl (placed_of_plain ?_ hb)
    cases x.dir <;> rfl
  | pw10 | pr9 | f3 =>
    obtain ⟨hb, -⟩ := placed_engine hp rfl
    exact transferComplete_onward rfl hb
  | pw11 | pr10 | f4 => exact completeSync_onward hf hp
  | a1 =>
    obtain ⟨hb, -⟩ := placed_engine hp rfl
    exact asyncA1_onward hb
  | a6 | mw7 | mr8 => exact selector rfl rfl rfl
  | mw1 | mr1 =>
    obtain ⟨hb, -⟩ := placed_engine hp rfl
    exact dmaM1_onward hf hp hsz hn rfl hb
  | mw2 | mr2 =>
    obtain ⟨hb, -, -, hh⟩ := placed_engine hp rfl
    exact holds_onward hb (hh rfl) rfl rfl rfl (fun _ => rfl)
  | mw3 | mr3 | mw5 | mr5 =>
    obtain ⟨hb, -, -, hh⟩ := placed_engine hp rfl
    exact holds_onward hb (hh rfl) rfl rfl rfl fun c => chan_modifyChan_field _ _ c Chan.holding (fun _ => rfl)
  | mw4 | mr4 =>
    obtain ⟨hb, -, -, hh⟩ := placed_engine hp rfl
    refine holds_onward hb (hh rfl) rfl rfl (emit_cfg _ _) fun c => congrArg Chan.holding (chan_congr (emit_chans ?_ _) c)
    rfl
  | mw6 | mr7 =>
    obtain ⟨hb, -⟩ := placed_engine hp rfl
    exact .stands _ _ rfl rfl (placed_of_plain rfl hb)
  | mr6 =>
    obtain ⟨hb, -, -, hh⟩ := placed_engine hp rfl
    simp only [submitMicro, dmaM6r]
    split
    · exact selector rfl rfl rfl
    · exact holds_onward hb (hh rfl) rfl rfl rfl (fun _ => rfl)
  | f1 =>
    obtain ⟨hb, -⟩ := placed_engine hp rfl
    simp only [submitMicro, fifoF1]
    split <;> exact .stands _ _ rfl rfl (placed_of_plain rfl hb)
  | f2 =>
    obtain ⟨hb, -⟩ := placed_engine hp rfl
    simp only [submitMicro, fifoF2]
    split
    · exact .stands _ _ rfl rfl (placed_of_plain rfl hb)
    · exact selector rfl rfl rfl

end Sys2Proof.Machine
end

section
/-! The invariant through one `exec` and one `step`: what a turn does not write it keeps, and the slots, the channels and FG are kept where it
writes them. -/

namespace Sys2Proof.Machine

variable {P : Part → Prop} {s t : State} {i : Instr} {c : Idx}

theorem Config.nDmaCh_le {cfg : Config} (h : cfg.wf = true) : cfg.nDmaCh ≤ 256 := by
  simp only [Config.wf, Bool.and_eq_true, decide_eq_true_eq] at h
  exact h.1.2.2

theorem bus_lt_of_descOk {d : Idx} (h : s.descOk d = true) : (s.desc d).bus.toNat < s.cfg.buses.length := by
  simp only [State.descOk, Bool.and_eq_true, decide_eq_true_eq] at h
  exact h.1.1.1

/-- A part that is not written keeps its clause, so the invariant asks for the written parts' clauses only. -/
theorem inv_of_writesOnly (hs : s.Inv) (hw : WritesOnly P s t) (hk : P .slots → ∀ y ∈ t.slots, Slot.ok s.cfg y)
    (hc : P .chans → ∀ y ∈ t.chans, Chan.ok s.cfg y) (hf : t.fgOk) : t.Inv where
  cfg := hw.cfg_eq ▸ hs.cfg
  sized := hw.sized hs.sized
  mem := hw.memOk hs.cfg hs.mem
  slots := by
    rw [hw.cfg_eq]
    by_cases hp : P .slots
    · exact hk hp
    · rw [hw.slots_eq hp]
      exact hs.slots
  chans := by
    rw [hw.cfg_eq]
    by_cases hp : P .chans
    · exact hc hp
    · rw [hw.chans_eq hp]
      exact hs.chans
  fg := hf

/-- The turn of another agent than the foreground. -/
theorem inv_of_writesOnly_others (hs : s.Inv) (hw : WritesOnly P s t) (hfg : ¬ P .fg) (htg : ¬ P .target)
    (hk : P .slots → ∀ y ∈ t.slots, Slot.ok s.cfg y)
    (hc : P .chans → (∀ y ∈ t.chans, Chan.ok s.cfg y) ∧ ∀ x, s.holdsChannel x → t.holdsChannel x) : t.Inv := by
  refine inv_of_writesOnly hs hw hk (fun hp => (hc hp).1)
    (fgOk_of_fg_eq (hw.fg_eq hfg) hw.cfg_eq (hw.descOk_eq htg) (fun x hx => ?_) hs.fg)
  by_cases hp : P .chans
  · exact (hc hp).2 x hx
  · exact holdsChannel_of_holding hw.cfg_eq (fun c => congrArg Chan.holding (chan_congr (hw.chans_eq hp) c)) hx

/-- A turn that writes no restricted part. -/
theorem inv_of_writesNone (hs : s.Inv) (hw : WritesOnly (fun _ => False) s t) : t.Inv :=
  inv_of_writesOnly_others hs hw id id False.elim False.elim

/-! ### The foreground's operations -/

theorem exec_configure_inv {d : Idx} (hs : s.Inv) (hd : d.toNat < s.cfg.nDesc) (h : exec (.configure d) s = .next t) :
    t.Inv := by
  have hw : WritesOnly (execParts s.fg (.configure d)) s t := exec_writesOnly .refl (fun _ => id) h
  refine inv_of_writesOnly hs hw nofun nofun ?_
  have stands {l : Label} {x : Locals} (ht : t.fg = .busy (.configure d) l x) (hl : l.ofConfigure = true) (hx : x.d = d)
      (hok : s.descOk d = true) : t.fgOk :=
    (fgOk_configure ht).2 ⟨hl, hx, hw.cfg_eq ▸ hd, (hw.descOk_eq nofun d).trans hok⟩
  obtain ⟨hb, rfl⟩ | ⟨l, x, hb, hl⟩ := exec_configure_cases h
  · by_cases hok : s.descOk d = true
    · exact stands (l := .c1) (x := Locals.init d) (by simp [configC0, hok]) rfl rfl hok
    · exact fgOk_of_idle (by simp [configC0, hok, hb])
  · obtain ⟨-, hx, -, hok⟩ := (fgOk_configure hb).1 hs.fg
    obtain ⟨-, rfl⟩ | ⟨-, rfl⟩ | ⟨-, rfl⟩ | ⟨-, rfl⟩ | ⟨-, rfl⟩ := hl
    · exact stands rfl rfl hx hok
    · exact stands rfl rfl hx hok
    · exact stands rfl rfl hx hok
    · exact stands rfl rfl hx hok
    · exact fgOk_of_idle rfl

theorem exec_waitUntilIdle_inv {d : Idx} (hs : s.Inv) (hd : d.toNat < s.cfg.nDesc) (h : exec (.waitUntilIdle d) s = .next t) :
    t.Inv := by
  have hw : WritesOnly (execParts s.fg (.waitUntilIdle d)) s t := exec_writesOnly .refl (fun _ => id) h
  refine inv_of_writesOnly hs hw nofun nofun ?_
  have stands {x : Locals} (hx : x.d = d) : (waitW1 d x s).fgOk := by
    unfold waitW1
    split
    · exact (fgOk_waitUntilIdle rfl).2 ⟨rfl, hx, hd⟩
    · exact fgOk_of_idle rfl
  obtain ⟨-, rfl⟩ | ⟨x, hb, rfl⟩ := exec_waitUntilIdle_cases h
  · exact stands rfl
  · obtain ⟨-, hx, -⟩ := (fgOk_waitUntilIdle hb).1 hs.fg
    exact stands hx

/-- The micro-steps of SUBMIT that write a channel work on one that has not moved past its length, or hold it. -/
theorem submitMicro_chans_ok {rx tx : Option Buffer} {cb : Callback} {args : Word} {op : Instr} {l : Label} {x : Locals}
    (hc : ∀ y ∈ s.chans, Chan.ok s.cfg y) (hd : x.d.toNat < s.cfg.nDesc) (hp : s.placed l x) (hl : l.parts x .chans) :
    ∀ y ∈ (submitMicro rx tx cb args op x s l).chans, Chan.ok s.cfg y := by
  cases l with
  | mw1 | mr1 => exact dmaM1_chans_ok hc _ hd
  | mw3 | mr3 =>
    obtain ⟨-, -, -, hh⟩ := placed_engine hp rfl
    exact dmaConfig_chans_ok hc (hh rfl) _ _ _ _ _
  | mw5 | mr5 => exact dmaSetCallback_chans_ok hc _
  | mw6 | mr7 => exact dmaStart_chans_ok hc _
  | mr6 =>
    simp only [submitMicro, dmaM6r]
    split
    · exact dmaFree_chans_ok (s := s.askNack _) hc _
    · exact hc
  | _ => simp [Label.parts] at hl

theorem label_of_slots {l : Label} {x : Locals} (h : l.parts x .slots) : l = .a1 := by
  cases l <;> simp [Label.parts] at h ⊢

theorem target_notMem_parts {l : Label} {x : Locals} : ¬ l.parts x .target := by
  cases l <;> simp [Label.parts]

theorem exec_submit_inv {d : Idx} {rx tx : Option Buffer} {cb : Callback} {args : Word} (hs : s.Inv)
    (hd : d.toNat < s.cfg.nDesc) (h : exec (.submit d rx tx cb args) s = .next t) : t.Inv := by
  obtain ⟨hb, rfl⟩ | ⟨l, x, hb, -, -, rfl⟩ := exec_submit_cases h
  · have hw := submitS0_writesOnly (P := (· = .fg)) (WritesOnly.refl (s := s)) rfl (.submit d rx tx cb args) d
    refine inv_of_writesOnly hs hw nofun nofun ?_
    by_cases hok : s.descOk d = true
    · have ht : (submitS0 (.submit d rx tx cb args) d s).fg = .busy (.submit d rx tx cb args) .s1 (Locals.init d) := by
        simp [submitS0, hok]
      exact (fgOk_submit ht).2 ⟨rfl, hw.cfg_eq ▸ hd, (hw.descOk_eq nofun d).trans hok, .inl rfl⟩
    · exact fgOk_of_idle (by simp [submitS0, hok, hb])
  · obtain ⟨rfl, -, hok, hp⟩ := (fgOk_submit hb).1 hs.fg
    have hw := submitMicro_writesOnly (P := fun w => w = .fg ∨ l.parts x w) (WritesOnly.refl (s := s)) (.inl rfl)
      (.submit x.d rx tx cb args) x rx tx cb args l (fun _ => .inr)
    refine inv_of_writesOnly hs hw (fun hl => ?slots) (fun hl => ?chans) ?fg
    case slots =>
      obtain rfl := label_of_slots (hl.resolve_left nofun)
      obtain ⟨hbuf, -, h1, -⟩ := placed_engine hp rfl
      exact asyncA1_slots_ok hs.slots hd (bus_lt_of_descOk hok) hbuf.1 (h1 rfl) hbuf.2
    case chans => exact submitMicro_chans_ok hs.chans hd hp (hl.resolve_left nofun)
    case fg =>
      cases submitMicro_onward hb hp hs.sized.2.2.1 (Config.nDmaCh_le hs.cfg) with
      | idle hi => exact fgOk_of_idle hi
      | stands l' x' hb' hx' hp' =>
        have htg := fun hl : Part.target = .fg ∨ l.parts x .target => target_notMem_parts (hl.resolve_left nofun)
        exact (fgOk_submit hb').2 ⟨hx', hw.cfg_eq ▸ hd, (hw.descOk_eq htg _).trans hok, hp'⟩

/-! ### The interrupt handler and the DMA engine -/

/-- An event of an identifier no slot is bound to (43_async.md R205). -/
theorem unmatchedIrq_inv (hs : s.Inv) (p : Idx) : (unmatchedIrq p s).Inv :=
  inv_of_writesNone hs (unmatchedIrq_writesOnly .refl p)

section Matched
variable {p : Idx} {k : Nat} (hs : s.Inv) (hm : s.matchSlot p = some k)
include hs hm

theorem rxrdyMatched_inv : (rxrdyMatched k s).Inv :=
  inv_of_writesOnly_others hs (rxrdyMatched_writesOnly (P := (· = .slots)) .refl k rfl) nofun nofun
    (fun _ => rxrdyMatched_slots_ok hs.slots hm) nofun

theorem txrdyMatched_inv : (txrdyMatched k s).Inv :=
  inv_of_writesOnly_others hs (txrdyMatched_writesOnly (P := (· = .slots)) .refl k rfl) nofun nofun
    (fun _ => txrdyMatched_slots_ok hs.slots hm) nofun

omit hm in
theorem txcompMatched_inv : (txcompMatched p k s).Inv :=
  inv_of_writesOnly_others hs
    (txcompMatched_writesOnly (P := fun w => w = .slots ∨ ∃ d, w = .free d) .refl p k (.inl rfl) (fun d => .inr ⟨d, rfl⟩))
    (by simp) (by simp) (fun _ => txcompMatched_slots_ok hs.slots) (by simp)

end Matched

theorem doneStep_inv (hs : s.Inv) (hst : (s.chan c).started = true) : (doneStep c s).Inv := by
  have hw := doneStep_writesOnly (P := fun w => w = .chans ∨ ∃ d, w = .free d) (WritesOnly.refl (s := s)) c (.inl rfl)
    (fun d => .inr ⟨d, rfl⟩)
  refine inv_of_writesOnly_others hs hw (by simp) (by simp) (by simp) fun _ => ?_
  obtain he | he := doneStep_chans c s
  · exact ⟨he ▸ hs.chans, fun x => holdsChannel_of_holding hw.cfg_eq fun c => congrArg Chan.holding (chan_congr he c)⟩
  · exact ⟨he ▸ dmaFree_chans_ok hs.chans c, fun x => holdsChannel_of_started hw.cfg_eq he hst⟩

theorem dmaByteStep_inv (hs : s.Inv) (c : Idx) : (dmaByteStep c s).Inv := by
  have hw := dmaByteStep_writesOnly (P := (· = .chans)) (WritesOnly.refl (s := s)) c rfl
  refine inv_of_writesOnly_others hs hw nofun nofun nofun fun _ => ?_
  obtain he | ⟨hr, he⟩ := dmaByteStep_chans c s
  · exact ⟨he ▸ hs.chans, fun x => holdsChannel_of_holding hw.cfg_eq fun c => congrArg Chan.holding (chan_congr he c)⟩
  · simp only [Chan.running, Bool.and_eq_true, decide_eq_true_eq] at hr
    obtain ⟨⟨-, hst⟩, hlt⟩ := hr
    refine ⟨he ▸ forall_mem_modify hs.chans fun y hy => ?_, fun x => holdsChannel_of_started hw.cfg_eq he hst⟩
    obtain rfl := chan_of_getElem? hy
    obtain ⟨-, -, hd⟩ := hs.chans _ (List.mem_of_getElem? hy)
    have hm : ((s.chan c).moved + 1).toNat = (s.chan c).moved.toNat + 1 := BitVec.toNat_add_of_lt (by simp; omega)
    refine ⟨by simp only [hm]; omega, fun h0 => ?_, hd⟩
    simp [hst] at h0

/-! ### One `exec` and one `step` -/

/-- A well-formed operation keeps the invariant; a completion is one of a started channel (60_exceptions.md R282). -/
theorem exec_inv (hs : s.Inv) (hi : i.wf s.cfg = true) (hm : ∀ c, i = .dmaDone c → (s.chan c).started = true)
    (h : exec i s = .next t) : t.Inv := by
  cases i with
  | configure d => exact exec_configure_inv hs (by simpa [Instr.wf] using hi) h
  | submit d rx tx cb args => exact exec_submit_inv hs (by simpa [Instr.wf] using hi) h
  | waitUntilIdle d => exact exec_waitUntilIdle_inv hs (by simpa [Instr.wf] using hi) h
  | isBusy d =>
    obtain ⟨-, rfl⟩ := exec_isBusy_cases h
    exact inv_of_writesOnly hs (WritesOnly.refl.finish (P := (· = .fg)) rfl _ _) nofun nofun (fgOk_of_idle rfl)
  | defaultCallback d =>
    obtain ⟨-, rfl⟩ := exec_defaultCallback_cases h
    exact inv_of_writesOnly hs (P := fun w => w = .fg ∨ w = .free d) (.finish (.unlock .refl d (.inr rfl)) (.inl rfl) _ _)
      (by simp) (by simp) (fgOk_of_idle rfl)
  | irqRxrdy p =>
    rw [exec_irqRxrdy] at h
    cases h
    split
    · exact rxrdyMatched_inv hs ‹_›
    · exact unmatchedIrq_inv hs p
  | irqTxrdy p =>
    rw [exec_irqTxrdy] at h
    cases h
    split
    · exact txrdyMatched_inv hs ‹_›
    · exact unmatchedIrq_inv hs p
  | irqTxcomp p =>
    rw [exec_irqTxcomp] at h
    cases h
    split
    · exact txcompMatched_inv hs
    · exact unmatchedIrq_inv hs p
  | irqNone p =>
    rw [exec_irqNone] at h
    cases h
    split
    · exact hs
    · exact unmatchedIrq_inv hs p
  | dmaDone c =>
    rw [exec_dmaDone] at h
    cases h
    exact doneStep_inv hs (hm c rfl)

/-- The operation FG is busy with is a well-formed one of the foreground. -/
theorem wf_of_fgOk {op : Instr} {l : Label} {x : Locals} (hb : s.fg = .busy op l x) (hs : s.fgOk) :
    op.wf s.cfg = true ∧ ∀ c, op ≠ .dmaDone c := by
  cases op with
  | configure d =>
    obtain ⟨-, -, hd, -⟩ := (fgOk_configure hb).1 hs
    exact ⟨by simpa [Instr.wf] using hd, nofun⟩
  | submit d rx tx cb args =>
    obtain ⟨-, hd, -⟩ := (fgOk_submit hb).1 hs
    exact ⟨by simpa [Instr.wf] using hd, nofun⟩
  | waitUntilIdle d =>
    obtain ⟨-, -, hd⟩ := (fgOk_waitUntilIdle hb).1 hs
    exact ⟨by simpa [Instr.wf] using hd, nofun⟩
  | _ => simp [State.fgOk, hb] at hs

theorem started_of_mayIssue (h : s.mayIssue (.dmaDone c) = true) : (s.chan c).started = true := by
  simp only [State.mayIssue, State.doneEnabled, Bool.and_eq_true] at h
  exact h.1.1.2

theorem hostWriteDesc_inv (hs : s.Inv) (hb : s.fg = .idle) (d : Idx) (hd : HostDesc) : (hostWriteDesc d hd s).Inv :=
  inv_of_writesOnly hs (hostWriteDesc_writesOnly (P := (· = .target)) .refl d hd rfl) nofun nofun (fgOk_of_idle hb)

theorem step_inv (hs : s.Inv) (h : step s = .next t) : t.Inv := by
  obtain ⟨-, -, l, hk⟩ := step_cases h
  have h0 : ({ s with inputs := l } : State).Inv := inv_of_writesNone hs (.setInputs .refl l)
  cases hk with
  | foreground op l x hf h =>
    obtain ⟨hi, hn⟩ := wf_of_fgOk hf hs.fg
    exact exec_inv h0 hi (fun c hc => absurd hc (hn c)) h
  | command ws more i rest _ hd hm h =>
    have h1 := inv_of_writesNone h0 (.drawEvent .refl i)
    refine exec_inv h1 (by simpa using wf_of_decode hd) (fun c hc => ?_) h
    rw [chan_congr (s := s) (by simp)]
    exact started_of_mayIssue (hc ▸ hm)
  | refused r h => exact h ▸ inv_of_writesNone h0 (.refuse .refl r)
  | rest h => exact h ▸ h0
  | dmaByte c _ _ h => exact h ▸ dmaByteStep_inv h0 c
  | fill a _ _ h => exact h ▸ inv_of_writesNone h0 (envFill_writesOnly .refl a)
  | evict a _ _ h => exact h ▸ inv_of_writesNone h0 (envEvict_writesOnly .refl a)
  | hostDesc d hd hf h => exact h ▸ hostWriteDesc_inv h0 hf d hd
  | hostRead a _ _ h => exact h ▸ inv_of_writesNone h0 (.cpuRead .refl a)
  | hostWrite a v _ _ h => exact h ▸ inv_of_writesNone h0 (.cpuWrite .refl a v)

end Sys2Proof.Machine
end

section
open Sys2Proof Sys2Proof.Machine

/-- Settles O54: a lock changes in a step that may write it only, and the parts of each label and command say which do. -/
theorem lockDiscipline : Obligations.LockDiscipline := by
  intro s t d hs h
  have hw := step_writesOnly h
  refine ⟨fun h0 h1 => ?taken, fun h0 h1 => ?freed⟩
  case taken =>
    have hp : StepPart s (.take d) := by
      by_contra hn
      rw [hw.lock_stays_free hn h0] at h1
      cases h1
    obtain ⟨d', rx, tx, cb, args, l, x, hf, hl⟩ := hp.submit (.inr ⟨d, rfl⟩)
    obtain ⟨rfl, rfl⟩ := label_of_take hl
    obtain rfl := submit_desc_of_fgOk hs hf
    exact ⟨rx, tx, cb, args, x, hf⟩
  case freed =>
    have hp : StepPart s (.free d) := by
      by_contra hn
      rw [hw.lock_stays_held hn h0] at h1
      cases h1
    obtain ⟨d', rx, tx, cb, args, l, x, hf, hl⟩ | hc := hp.free hs
    · obtain ⟨rfl, hlabel⟩ := label_of_free hl
      obtain rfl := submit_desc_of_fgOk hs hf
      exact .inl ⟨rx, tx, cb, args, l, x, hf, hlabel⟩
    · exact .inr hc

/-- Settles O60: a turn keeps the clauses of the parts it does not write; A1 binds a whole slot, the interrupt handler keeps a slot's pointer
in step with its count, the adapter writes the channel it holds, and each micro-step leaves FG where its checks allow. -/
theorem stepKeepsInvariant : Obligations.StepKeepsInvariant := fun _ _ => step_inv

/-- Settles O55: only A1 of a SUBMIT may write RR, and it takes the successor modulo `N_SLOTS`. -/
theorem roundRobinIndex : Obligations.RoundRobinIndex := by
  refine ⟨fun cfg hs m => rfl, fun s t h => ⟨(step_writesOnly h).rr_lt, fun hr => ?_⟩⟩
  have hp : StepPart s .rr := not_not.1 (mt (step_writesOnly h).rr_eq hr)
  obtain ⟨d, rx, tx, cb, args, l, x, hf, hl⟩ := hp.submit (.inl rfl)
  obtain rfl := label_of_rr hl
  exact ⟨d, rx, tx, cb, args, x, hf⟩

/-- Settles O56: no update of the state clears a flag, shortens the history or writes a parameter. -/
theorem hazardsAndHistory : Obligations.HazardsAndHistory := by
  refine ⟨fun cfg hs m => ⟨rfl, rfl⟩, fun s t h => ?_⟩
  have hw := step_writesOnly h
  obtain ⟨h1, h2, h3, h4⟩ := hw.hazards_grow
  exact ⟨h1, h2, h3, h4, hw.cfg_eq, hw.hist_grows⟩

/-- Settles O6: `step` asks for the marks first, and a command the decoder refuses is taken from the input and marked. -/
theorem markedStateStops : Obligations.MarkedStateStops := by
  refine ⟨fun cfg hs m => ⟨rfl, rfl⟩, fun s hm t h => ?stops, fun s ws more r hf hr hb hi hn hd => ?refused⟩
  case stops =>
    obtain ⟨hf, hr, -⟩ := step_cases h
    exact hm.elim (· hf) (· hr)
  case refused =>
    have hq : s.waitsForForeground ws = false := by cases ws <;> simp [State.waitsForForeground, hb]
    rw [step_of_command hf hr hi]
    simp [commandTurn, hn, hq, hd, State.popInput, hi, State.refuse]

end

section
/-! What a line, a byte of memory and a byte the CPU sees are after a clean, an invalidate, an eviction and a store (20_memory.md R66
to R71): one lemma per operation and per thing read. -/

namespace Sys2Proof.Machine

variable {s : State}

/-! ### Present lines -/

theorem line?_of_enabled (hd : s.cfg.dcacheEnabled = true) (a : Nat) : s.line? a = assocGet s.cache (lineBase s.cfg a) := by
  simp [State.line?, hd]

theorem line?_of_disabled (hd : s.cfg.dcacheEnabled = false) (a : Nat) : s.line? a = none := by simp [State.line?, hd]

theorem enabled_of_line? {a : Nat} (h : s.line? a ≠ none) : s.cfg.dcacheEnabled = true := by
  by_contra hd
  exact h (line?_of_disabled (by simpa using hd) a)

/-- With no cache no line is listed (20_memory.md R65). -/
theorem cache_of_disabled (hs : s.memOk) (hd : s.cfg.dcacheEnabled = false) : s.cache = [] := by
  obtain ⟨-, -, he⟩ := Cache.wf_iff.1 hs.2
  simpa [hd] using he

theorem line?_eq_assocGet (hs : s.memOk) (a : Nat) : s.line? a = assocGet s.cache (lineBase s.cfg a) := by
  cases hd : s.cfg.dcacheEnabled with
  | true => exact line?_of_enabled hd a
  | false => simp [line?_of_disabled hd, cache_of_disabled hs hd, assocGet]

/-- A listed line holds `CACHE_LINE` bytes (20_memory.md R65). -/
theorem length_of_assocGet {la : Nat} {l : Line} (hs : s.memOk) (h : assocGet s.cache la = some l) :
    l.data.length = s.cfg.cacheLine := by
  obtain ⟨-, hall, -⟩ := Cache.wf_iff.1 hs.2
  exact (hall _ (mem_of_assocGet h)).2.2

theorem sub_lineBase_lt {cfg : Config} (h0 : 0 < cfg.cacheLine) (a : Nat) : a - lineBase cfg a < cfg.cacheLine := by
  have := lt_lineBase_add h0 a
  have := lineBase_le cfg a
  omega

/-- An address stands in the data of its listed line. -/
theorem offset_lt_length {a : Nat} {l : Line} (h0 : 0 < s.cfg.cacheLine) (hs : s.memOk)
    (h : assocGet s.cache (lineBase s.cfg a) = some l) : a - lineBase s.cfg a < l.data.length :=
  (sub_lineBase_lt h0 a).trans_eq (length_of_assocGet hs h).symm

/-- Inside a line the byte read does not depend on the value past its end. -/
theorem getD_eq_getD {data : List Byte} {k : Nat} (h : k < data.length) (v w : Byte) : data.getD k v = data.getD k w := by
  simp [List.getD_eq_getElem?_getD, h]

theorem cpuByte_of_present {a : Word} {l : Line} (h : s.line? a.toNat = some l) :
    s.cpuByte a = l.data.getD (a.toNat - lineBase s.cfg a.toNat) (Memory.read s.mem a.toNat) := by
  simp [State.cpuByte, h]

/-- The CPU sees an unchanged byte where its line has the same data, or is absent before and after with the same byte of memory. -/
theorem cpuByte_eq_of_line {t : State} {z : Word} (h0 : 0 < s.cfg.cacheLine) (hs : s.memOk) (hc : t.cfg = s.cfg)
    (hl : (t.line? z.toNat).map Line.data = (s.line? z.toNat).map Line.data)
    (hm : s.line? z.toNat = none → Memory.read t.mem z.toNat = Memory.read s.mem z.toNat) : t.cpuByte z = s.cpuByte z := by
  cases ha : s.line? z.toNat with
  | none =>
    have ht : t.line? z.toNat = none := by simpa [ha] using hl
    rw [cpuByte_of_absent ha, cpuByte_of_absent ht, hm ha]
  | some l =>
    obtain ⟨l', ht, hdata⟩ : ∃ l', t.line? z.toNat = some l' ∧ l'.data = l.data := by simpa [ha] using hl
    rw [cpuByte_of_present ha, cpuByte_of_present ht, hdata, hc]
    exact getD_eq_getD (offset_lt_length h0 hs ((line?_eq_assocGet hs _).symm.trans ha)) _ _

/-! ### The lines of a range -/

theorem meets_iff {cfg : Config} {a n la : Nat} : meets cfg a n la = true ↔ la < a + n ∧ a < la + cfg.cacheLine := by
  simp [meets]

/-- A range meets the line of each of its addresses. -/
theorem meets_lineBase {cfg : Config} (h0 : 0 < cfg.cacheLine) {a n k : Nat} (h1 : a ≤ k) (h2 : k < a + n) :
    meets cfg a n (lineBase cfg k) = true := by
  have := lineBase_le cfg k
  have := lt_lineBase_add h0 k
  exact meets_iff.2 ⟨by omega, by omega⟩

/-- A clean or an invalidate does something or not (20_memory.md R70, R71). -/
theorem rangeOff_or_on (s : State) (n : Word) :
    (s.cfg.dcacheEnabled = false ∨ n = 0) ∨ s.cfg.dcacheEnabled = true ∧ n ≠ 0 := by
  cases s.cfg.dcacheEnabled <;> simp [em]

/-! ### The clean -/

/-- What a clean makes of a line that it takes or not. -/
def Line.cleaned (taken : Bool) (l : Line) : Line := if taken then { l with state := .clean } else l

@[simp] theorem Line.data_cleaned (p : Bool) (l : Line) : (l.cleaned p).data = l.data := by cases p <;> rfl

theorem Line.state_cleaned (p : Bool) {l : Line} (h : p = true ∨ l.state = .clean) : (l.cleaned p).state = .clean := by
  cases p with
  | true => rfl
  | false => exact h.resolve_left Bool.false_ne_true

theorem cleanRange_of_off {a n : Word} (h : s.cfg.dcacheEnabled = false ∨ n = 0) : s.cleanRange a n = s := by
  rcases h with h | h <;> simp [State.cleanRange, h]

theorem cleanRange_of_on {a n : Word} (hd : s.cfg.dcacheEnabled = true) (hn : n ≠ 0) :
    s.cleanRange a n = { s with
      mem := writeBack (meets s.cfg a.toNat n.toNat) s.cache s.mem
      cache := s.cache.map (fun e => (e.1, e.2.cleaned (meets s.cfg a.toNat n.toNat e.1))) } := by
  rw [State.cleanRange, if_pos (by simpa [hd] using hn)]
  dsimp only
  congr 2
  funext e
  unfold Line.cleaned
  split <;> rfl

@[simp] theorem cleanRange_cfg (s : State) (a n : Word) : (s.cleanRange a n).cfg = s.cfg := perform_cfg s (.cacheClean a n)
@[simp] theorem cleanRange_hist (s : State) (a n : Word) : (s.cleanRange a n).hist = s.hist := perform_hist s (.cacheClean a n)

/-- A line after the clean (20_memory.md R70). -/
theorem assocGet_cleanRange {a n : Word} (hd : s.cfg.dcacheEnabled = true) (hn : n ≠ 0) (la : Nat) :
    assocGet (s.cleanRange a n).cache la =
      (assocGet s.cache la).map (Line.cleaned (meets s.cfg a.toNat n.toNat la)) := by
  rw [cleanRange_of_on hd hn]
  exact assocGet_map_key fun la => Line.cleaned (meets s.cfg a.toNat n.toNat la)

/-- A clean leaves no line of its range dirty, and none dirty that was clean. -/
theorem clean_of_cleanRange {a n : Word} {la : Nat} {l : Line} (h : assocGet (s.cleanRange a n).cache la = some l) :
    ∃ l', assocGet s.cache la = some l' ∧ (l'.state = .clean → l.state = .clean) ∧
      (s.cfg.dcacheEnabled = true → n ≠ 0 → meets s.cfg a.toNat n.toNat la = true → l.state = .clean) := by
  obtain hoff | ⟨hd, hn⟩ := rangeOff_or_on s n
  · rw [cleanRange_of_off hoff] at h
    exact ⟨l, h, id, fun hd hn => (hoff.elim (by simp [hd]) hn).elim⟩
  · rw [assocGet_cleanRange hd hn] at h
    obtain ⟨l', hl', rfl⟩ := Option.map_eq_some_iff.1 h
    exact ⟨l', hl', fun hc => Line.state_cleaned _ (.inr hc), fun _ _ hm => Line.state_cleaned _ (.inl hm)⟩

/-- The clean keeps the data of every line. -/
theorem line?_cleanRange_data (s : State) (a n : Word) (z : Nat) :
    ((s.cleanRange a n).line? z).map Line.data = (s.line? z).map Line.data := by
  obtain hoff | ⟨hd, hn⟩ := rangeOff_or_on s n
  · rw [cleanRange_of_off hoff]
  · rw [line?_of_enabled (by simpa using hd), line?_of_enabled hd, assocGet_cleanRange hd hn, cleanRange_cfg, Option.map_map]
    congr 1
    funext l
    exact Line.data_cleaned _ l

/-- What a write-back leaves at an address whose line it does not write. -/
theorem read_writeBack_of_not_dirty {p : Nat → Bool} {k : Nat} (h0 : 0 < s.cfg.cacheLine) (hs : s.memOk)
    (h : ∀ l, assocGet s.cache (lineBase s.cfg k) = some l → p (lineBase s.cfg k) = true → l.state = .clean) :
    Memory.read (writeBack p s.cache s.mem) k = Memory.read s.mem k := by
  rw [read_writeBack hs.2 h0]
  cases hl : assocGet s.cache (lineBase s.cfg k) with
  | none => rfl
  | some l =>
    refine if_neg fun hp => ?_
    obtain ⟨hp, hdirty⟩ : p (lineBase s.cfg k) = true ∧ l.state = .dirty := by simpa using hp
    rw [h l hl hp] at hdirty
    cases hdirty

/-- What a write-back leaves at an address whose line it writes: the byte the CPU sees there. -/
theorem read_writeBack_of_dirty {p : Nat → Bool} {k : Nat} {l : Line} (h0 : 0 < s.cfg.cacheLine) (hs : s.memOk)
    (hl : assocGet s.cache (lineBase s.cfg k) = some l) (hp : p (lineBase s.cfg k) = true) (hdirty : l.state = .dirty) :
    Memory.read (writeBack p s.cache s.mem) k = l.data.getD (k - lineBase s.cfg k) (Memory.read s.mem k) := by
  rw [read_writeBack hs.2 h0, hl]
  simp [hp, hdirty]

/-- The clean keeps memory where no dirty line of its range is. -/
theorem read_cleanRange_of_not_dirty {a n : Word} {k : Nat} (h0 : 0 < s.cfg.cacheLine) (hs : s.memOk)
    (h : ∀ l, assocGet s.cache (lineBase s.cfg k) = some l → meets s.cfg a.toNat n.toNat (lineBase s.cfg k) = true →
      l.state = .clean) : Memory.read (s.cleanRange a n).mem k = Memory.read s.mem k := by
  obtain hoff | ⟨hd, hn⟩ := rangeOff_or_on s n
  · rw [cleanRange_of_off hoff]
  · rw [cleanRange_of_on hd hn]
    exact read_writeBack_of_not_dirty h0 hs h

/-- The clean writes the dirty lines of its range to memory (20_memory.md R70). -/
theorem read_cleanRange_of_dirty {a n : Word} {k : Nat} {l : Line} (h0 : 0 < s.cfg.cacheLine) (hs : s.memOk)
    (hd : s.cfg.dcacheEnabled = true) (hn : n ≠ 0) (hl : assocGet s.cache (lineBase s.cfg k) = some l)
    (hm : meets s.cfg a.toNat n.toNat (lineBase s.cfg k) = true) (hdirty : l.state = .dirty) (w : Byte) :
    Memory.read (s.cleanRange a n).mem k = l.data.getD (k - lineBase s.cfg k) w := by
  rw [cleanRange_of_on hd hn]
  exact (read_writeBack_of_dirty h0 hs hl hm hdirty).trans (getD_eq_getD (offset_lt_length h0 hs hl) _ _)

/-- The clean changes nothing the CPU sees. -/
theorem cpuByte_cleanRange (h0 : 0 < s.cfg.cacheLine) (hs : s.memOk) (a n z : Word) :
    (s.cleanRange a n).cpuByte z = s.cpuByte z := by
  refine cpuByte_eq_of_line h0 hs (cleanRange_cfg _ _ _) (line?_cleanRange_data s a n _) fun ha => ?_
  rw [line?_eq_assocGet hs] at ha
  exact read_cleanRange_of_not_dirty h0 hs (fun l hl => by simp [ha] at hl)

/-- After the clean memory holds what the CPU sees in the range, but under a line that was stale and clean before. -/
theorem read_cleanRange_eq_cpuByte {a n z : Word} (h0 : 0 < s.cfg.cacheLine) (hs : s.memOk) (h1 : a.toNat ≤ z.toNat)
    (h2 : z.toNat < a.toNat + n.toNat)
    (hz : ∀ l, s.line? z.toNat = some l → l.state = .clean → s.cpuByte z = Memory.read s.mem z.toNat) :
    Memory.read (s.cleanRange a n).mem z.toNat = s.cpuByte z := by
  have hmeets := meets_lineBase h0 h1 h2
  have hn : n ≠ 0 := by rintro rfl; simp at h2; omega
  cases hl : s.line? z.toNat with
  | none =>
    have ha : assocGet s.cache (lineBase s.cfg z.toNat) = none := (line?_eq_assocGet hs _).symm.trans hl
    rw [cpuByte_of_absent hl, read_cleanRange_of_not_dirty h0 hs (fun l h => by simp [ha] at h)]
  | some l =>
    have hd := enabled_of_line? (s := s) (a := z.toNat) (by simp [hl])
    have ha : assocGet s.cache (lineBase s.cfg z.toNat) = some l := (line?_eq_assocGet hs _).symm.trans hl
    cases hst : l.state with
    | clean =>
      rw [hz l hl hst, read_cleanRange_of_not_dirty h0 hs]
      intro l' hl' _
      rw [ha] at hl'
      cases hl'
      exact hst
    | dirty =>
      rw [cpuByte_of_present hl]
      exact read_cleanRange_of_dirty h0 hs hd hn ha hmeets hst _

/-! ### The invalidate -/

theorem invalidateRange_of_off {a n : Word} (h : s.cfg.dcacheEnabled = false ∨ n = 0) : s.invalidateRange a n = s := by
  rcases h with h | h <;> simp [State.invalidateRange, h]

theorem invalidateRange_of_on {a n : Word} (hd : s.cfg.dcacheEnabled = true) (hn : n ≠ 0) :
    s.invalidateRange a n =
      { s with cache := s.cache.filter (fun e => !meets s.cfg a.toNat n.toNat e.1) } := by
  rw [State.invalidateRange, if_pos (by simpa [hd] using hn)]

@[simp] theorem invalidateRange_cfg (s : State) (a n : Word) : (s.invalidateRange a n).cfg = s.cfg :=
  perform_cfg s (.cacheInvalidate a n)

@[simp] theorem invalidateRange_hist (s : State) (a n : Word) : (s.invalidateRange a n).hist = s.hist :=
  perform_hist s (.cacheInvalidate a n)

@[simp] theorem invalidateRange_mem (s : State) (a n : Word) : (s.invalidateRange a n).mem = s.mem := by
  unfold State.invalidateRange
  split <;> rfl

/-- A line after the invalidate (20_memory.md R71). -/
theorem assocGet_invalidateRange {a n : Word} (hd : s.cfg.dcacheEnabled = true) (hn : n ≠ 0) (la : Nat) :
    assocGet (s.invalidateRange a n).cache la =
      if meets s.cfg a.toNat n.toNat la = true then none else assocGet s.cache la := by
  rw [invalidateRange_of_on hd hn]
  refine (assocGet_filter_key (fun la => !meets s.cfg a.toNat n.toNat la)).trans ?_
  cases meets s.cfg a.toNat n.toNat la <;> rfl

/-- An invalidate lists no line that was not. -/
theorem assocGet_of_invalidateRange {a n : Word} {la : Nat} {l : Line}
    (h : assocGet (s.invalidateRange a n).cache la = some l) : assocGet s.cache la = some l := by
  obtain hoff | ⟨hd, hn⟩ := rangeOff_or_on s n
  · rwa [invalidateRange_of_off hoff] at h
  · rw [assocGet_invalidateRange hd hn] at h
    split at h
    · cases h
    · exact h

/-- After the invalidate the CPU sees memory's bytes in the range, whatever the cache held (20_memory.md R74). -/
theorem cpuByte_invalidateRange {a n z : Word} (h0 : 0 < s.cfg.cacheLine) (h1 : a.toNat ≤ z.toNat)
    (h2 : z.toNat < a.toNat + n.toNat) : (s.invalidateRange a n).cpuByte z = Memory.read s.mem z.toNat := by
  have hn : n ≠ 0 := by rintro rfl; simp at h2; omega
  have habsent : (s.invalidateRange a n).line? z.toNat = none := by
    cases hd : s.cfg.dcacheEnabled with
    | false => exact line?_of_disabled (by simpa using hd) _
    | true =>
      rw [line?_of_enabled (by simpa using hd), assocGet_invalidateRange hd hn, invalidateRange_cfg,
        if_pos (meets_lineBase h0 h1 h2)]
  rw [cpuByte_of_absent habsent, invalidateRange_mem]

/-! ### The eviction -/

/-- An eviction lists no line that was not. -/
theorem assocGet_of_evictLine {a la : Nat} {l : Line} (h : assocGet (s.evictLine a).cache la = some l) :
    assocGet s.cache la = some l := by
  by_cases he : la = lineBase s.cfg a
  · subst he; simp at h
  · rwa [evictLine_cache, assocGet_del_ne _ _ _ he] at h

theorem line?_evictLine_same (s : State) (a : Nat) : (s.evictLine a).line? a = none := by
  simp [State.line?]

theorem line?_evictLine_ne {a z : Nat} (h : lineBase s.cfg z ≠ lineBase s.cfg a) : (s.evictLine a).line? z = s.line? z := by
  simp only [State.line?, evictLine_cfg, evictLine_cache, assocGet_del_ne _ _ _ h]

/-- An eviction keeps memory but under its own line, where that is dirty (20_memory.md R69). -/
theorem read_evictLine_of_not_dirty {a k : Nat} (h0 : 0 < s.cfg.cacheLine) (hs : s.memOk)
    (h : ∀ l, s.line? a = some l → lineBase s.cfg k = lineBase s.cfg a → l.state = .clean) :
    Memory.read (s.evictLine a).mem k = Memory.read s.mem k := by
  rw [evictLine_mem]
  refine read_writeBack_of_not_dirty h0 hs fun l hl hp => ?_
  have he : lineBase s.cfg k = lineBase s.cfg a := by simpa using hp
  exact h l ((line?_eq_assocGet hs a).trans (he ▸ hl)) he

/-- An eviction writes its dirty line's bytes to memory (20_memory.md R69). -/
theorem read_evictLine_of_dirty {a k : Nat} {l : Line} (h0 : 0 < s.cfg.cacheLine) (hs : s.memOk) (hl : s.line? a = some l)
    (hdirty : l.state = .dirty) (hk : lineBase s.cfg k = lineBase s.cfg a) :
    Memory.read (s.evictLine a).mem k = l.data.getD (k - lineBase s.cfg k) (Memory.read s.mem k) := by
  rw [evictLine_mem]
  exact read_writeBack_of_dirty h0 hs (by rw [hk, ← line?_eq_assocGet hs, hl]) (by simpa using hk) hdirty

/-! ### The store -/

/-- A store keeps every other line (20_memory.md R67). -/
theorem assocGet_store_ne {a : Word} {la : Nat} (v : Byte) (h : la ≠ lineBase s.cfg a.toNat) :
    assocGet (s.store a v).cache la = assocGet s.cache la := by
  unfold State.store
  split
  · exact assocGet_put_ne _ _ _ _ h
  · rfl

theorem store_of_absent {a : Word} (v : Byte) (h : s.line? a.toNat = none) :
    s.store a v = { s with mem := Memory.write s.mem a.toNat v } := by simp [State.store, h]

theorem store_of_present {a : Word} {l : Line} (v : Byte) (h : s.line? a.toNat = some l) :
    s.store a v = { s with
      cache := assocPut s.cache (lineBase s.cfg a.toNat) ⟨.dirty, l.data.set (a.toNat - lineBase s.cfg a.toNat) v⟩ } := by
  simp [State.store, h]

/-- A store keeps memory but at its own address. -/
theorem read_store_ne {a : Word} {k : Nat} (v : Byte) (h : k ≠ a.toNat) :
    Memory.read (s.store a v).mem k = Memory.read s.mem k := by
  unfold State.store
  split
  · rfl
  · exact Memory.read_write_ne _ _ _ _ h

end Sys2Proof.Machine
end

section
/-! What a turn does to memory and cache. `MemPath s t` says that `t` comes from `s` by updates of memory and cache, where a store stands
in the history with its access and a byte the DMA engine read with its value. Every other update leaves `memView` as it is; each function
of the model has one lemma about the updates it makes. -/

namespace Sys2Proof.Machine

/-- An access of memory by a store of the CPU or by the DMA engine (20_memory.md R67, R72). -/
def Event.isMemAccess : Event → Bool
  | .cpuWrite _ _ | .dmaRead _ _ | .dmaWrite _ _ => true
  | _ => false

/-- The accesses of the history, in order. -/
def State.memAccesses (s : State) : List Event := s.hist.filter Event.isMemAccess

/-- What an update that is none of memory or cache leaves as it is. -/
def State.memView (s : State) : Config × Memory × Cache × List Event := (s.cfg, s.mem, s.cache, s.memAccesses)

/-- One update of memory and cache: none, a fill, an eviction, a clean, an invalidate, a store of the CPU, a byte the DMA engine wrote to
memory, or a byte it read, which outside the receive-holding registers is memory's. -/
inductive MemStep (u : State) : State → Prop
  | quiet {v} (h : v.memView = u.memView) : MemStep u v
  | fill (hd : u.cfg.dcacheEnabled = true) (a : Word) : MemStep u (u.fillLine a.toNat)
  | evict (a : Nat) : MemStep u (u.evictLine a)
  | clean (a n : Word) : MemStep u (u.cleanRange a n)
  | invalidate (a n : Word) : MemStep u (u.invalidateRange a n)
  | cpuStore (a : Word) (v : Byte) : MemStep u ((u.store a v).record (.cpuWrite a v))
  | dmaStore (a : Word) (v : Byte) : MemStep u (({ u with mem := Memory.write u.mem a.toNat v } : State).record (.dmaWrite a v))
  | dmaFetch (a : Word) (v : Byte) (hv : Config.rhrBus? u.cfg a = none → v = Memory.read u.mem a.toNat) :
    MemStep u (u.record (.dmaRead a v))

/-- Updates of memory and cache, one after another. -/
def MemPath (u v : State) : Prop := Relation.ReflTransGen MemStep u v

/-! ### The updates that leave memory and cache -/

theorem eq_of_memView {u v : State} (h : v.memView = u.memView) :
    v.cfg = u.cfg ∧ v.mem = u.mem ∧ v.cache = u.cache ∧ v.memAccesses = u.memAccesses := by simpa [State.memView] using h

section View
variable (u : State)

@[simp] theorem memAccesses_record (e : Event) :
    (u.record e).memAccesses = u.memAccesses ++ if e.isMemAccess then [e] else [] := by
  simp only [State.memAccesses, record_hist, List.filter_append, List.filter_cons, List.filter_nil]

theorem memView_record {e : Event} (he : e.isMemAccess = false) : (u.record e).memView = u.memView := by
  simp [State.memView, he]

@[simp] theorem memView_consume : u.consume.memView = u.memView := rfl
@[simp] theorem memView_choose : u.choose.memView = u.memView := memView_record _ rfl
@[simp] theorem memView_drawByte : u.drawByte.memView = u.memView := memView_record _ rfl
@[simp] theorem memView_modifyDesc (d : Idx) (f : Desc → Desc) : (u.modifyDesc d f).memView = u.memView := rfl
@[simp] theorem memView_modifySlot (k : Nat) (f : Slot → Slot) : (u.modifySlot k f).memView = u.memView := rfl
@[simp] theorem memView_modifyChan (c : Idx) (f : Chan → Chan) : (u.modifyChan c f).memView = u.memView := rfl
@[simp] theorem memView_unlock (d : Idx) : (u.unlock d).memView = u.memView := rfl
@[simp] theorem memView_takeLock (d : Idx) : (u.takeLock d).memView = u.memView := rfl
@[simp] theorem memView_raise (f : Fault) : (u.raise f).memView = u.memView := rfl
@[simp] theorem memView_refuse (r : Refusal) : (u.refuse r).memView = u.memView := rfl
@[simp] theorem memView_goto (op : Instr) (l : Label) (x : Locals) : (u.goto op l x).memView = u.memView := rfl
@[simp] theorem memView_engineReturn (op : Instr) (x : Locals) (st : Status) : (u.engineReturn op x st).memView = u.memView := rfl
@[simp] theorem memView_finish (o : Opcode) (r : Option Word) : (u.finish o r).memView = u.memView := memView_record _ rfl
@[simp] theorem memView_markUnmatched : u.markUnmatched.memView = u.memView := rfl
@[simp] theorem memView_setInputs (l : List Input) : ({ u with inputs := l } : State).memView = u.memView := rfl

/-- A command that is none of the cache's leaves memory and cache (30_encoding.md R100). -/
@[simp] theorem memView_emit {c : Cmd} (hc : ∀ a n, c ≠ .cacheClean a n) (hi : ∀ a n, c ≠ .cacheInvalidate a n) :
    (u.emit c).memView = u.memView := by
  refine .trans ?_ (memView_record u (e := .cmd c) rfl)
  cases c with
  | cacheClean a n => exact absurd rfl (hc a n)
  | cacheInvalidate a n => exact absurd rfl (hi a n)
  | _ => rfl

@[simp] theorem memView_askNack (b : Idx) : (u.askNack b).memView = u.memView := memView_emit _ (by simp) (by simp)
@[simp] theorem memView_askByte (b : Idx) : (u.askByte b).memView = u.memView := memView_emit _ (by simp) (by simp)
@[simp] theorem memView_askTxrdy (b : Idx) (t : Word) : (u.askTxrdy b t).memView = u.memView := memView_emit _ (by simp) (by simp)
@[simp] theorem memView_askRxrdy (b : Idx) (t : Word) : (u.askRxrdy b t).memView = u.memView := memView_emit _ (by simp) (by simp)
@[simp] theorem memView_askTxcomp (b : Idx) (t : Word) : (u.askTxcomp b t).memView = u.memView := memView_emit _ (by simp) (by simp)

@[simp] theorem memView_invokeCallback (cb : Callback) (d : Idx) (args : Word) :
    (u.invokeCallback cb d args).memView = u.memView := by
  unfold State.invokeCallback
  split
  · rfl
  · simp
  · split <;> simp

@[simp] theorem memView_drawEvent (i : Instr) : (u.drawEvent i).memView = u.memView := by
  unfold State.drawEvent
  split
  · rfl
  · exact memView_record _ rfl

end View

/-! ### The shared operations -/

/-- Outside the receive-holding registers the DMA engine reads memory's byte (20_memory.md R72). -/
theorem dmaByte_of_memory {u : State} {a : Word} (h : Config.rhrBus? u.cfg a = none) :
    u.dmaByte a = Memory.read u.mem a.toNat := by
  simp [State.dmaByte, h]

namespace MemPath

variable {s u v : State}

theorem refl : MemPath u u := Relation.ReflTransGen.refl

theorem single (h : MemStep u v) : MemPath u v := Relation.ReflTransGen.single h

theorem tail (h : MemPath s u) (h' : MemStep u v) : MemPath s v := Relation.ReflTransGen.tail h h'

theorem trans (h : MemPath s u) (h' : MemPath u v) : MemPath s v := Relation.ReflTransGen.trans h h'

theorem of_view (h : v.memView = u.memView) : MemPath u v := single (.quiet h)

theorem then_view (h : MemPath s u) (hv : v.memView = u.memView) : MemPath s v := h.tail (.quiet hv)

theorem emit (u : State) (c : Cmd) : MemPath u (u.emit c) := by
  have hr : MemPath u (u.record (.cmd c)) := of_view (memView_record _ rfl)
  cases c with
  | cacheClean a n => exact hr.tail (.clean a n)
  | cacheInvalidate a n => exact hr.tail (.invalidate a n)
  | _ => exact of_view (memView_emit _ (by simp) (by simp))

theorem allocate (u : State) (a : Word) : MemPath u (u.allocate a) := by
  unfold State.allocate
  split
  · rename_i hc
    split
    · exact (of_view (memView_choose u)).tail (.fill (Bool.and_eq_true _ _ ▸ hc).1 a)
    · exact of_view (memView_choose u)
  · exact .refl

theorem cpuRead (u : State) (a : Word) : MemPath u (u.cpuRead a) := (allocate u a).then_view (memView_record _ rfl)

theorem cpuWrite (u : State) (a : Word) (v : Byte) : MemPath u (u.cpuWrite a v) := (allocate u a).tail (.cpuStore a v)

theorem dmaRead (u : State) (a : Word) : MemPath u (u.dmaRead a) := by
  unfold State.dmaRead
  split
  · exact (of_view (memView_consume u)).tail (.dmaFetch a _ (dmaByte_of_memory (u := u)))
  · exact single (.dmaFetch a _ dmaByte_of_memory)

theorem dmaWrite (u : State) (a : Word) (v : Byte) : MemPath u (u.dmaWrite a v) := by
  unfold State.dmaWrite
  split
  · exact of_view (memView_record _ rfl)
  · exact .single (.dmaStore a v)

theorem fifoReads (n : Nat) (a : Word) (u : State) : MemPath u (fifoReads n a u) := by
  induction n generalizing a u with
  | zero => exact .refl
  | succ n ih => exact (cpuRead u a).trans (ih _ _)

theorem fifoWrites (vs : List Byte) (a : Word) (u : State) : MemPath u (fifoWrites vs a u) := by
  induction vs generalizing a u with
  | nil => exact .refl
  | cons v vs ih => exact (cpuWrite u a v).trans (ih _ _)

theorem fifoDraws (n : Nat) (u : State) : MemPath u (fifoDraws n u).2 := by
  induction n generalizing u with
  | zero => exact .refl
  | succ n ih => exact (of_view (memView_drawByte u)).trans (ih _)

theorem fifoReplaces (n : Nat) (a : Word) (u : State) : MemPath u (fifoReplaces n a u) := by
  induction n generalizing a u with
  | zero => exact .refl
  | succ n ih =>
    refine .trans ?_ (ih _ _)
    split
    · exact (of_view ((memView_drawByte _).trans (memView_choose u))).trans (cpuWrite _ a _)
    · exact of_view (memView_choose u)

theorem fifoStores (ok : Bool) (n : Nat) (a : Word) (u : State) : MemPath u (fifoStores ok n a u) := by
  unfold Machine.fifoStores
  split
  · exact (fifoDraws n u).trans (fifoWrites _ a _)
  · exact fifoReplaces n a u

end MemPath

/-! ### The micro-steps, one `exec`, one step -/

section Submit
variable (op : Instr) (x : Locals) (s : State)

theorem memView_transferComplete (ready : Label) : (transferComplete ready op x s).memView = s.memView := by
  unfold transferComplete
  split <;> simp

theorem memView_completeSync : (completeSync op x s).memView = s.memView := by
  unfold completeSync
  split <;> simp

theorem memView_asyncA1 : (asyncA1 op x s).memView = s.memView := by
  unfold asyncA1 allocSlot
  cases s.cfg.slotPolicy with
  | overwrite => rfl
  | failFast => cases s.scanSlot <;> rfl

theorem memView_dmaM1 (next : Label) : (dmaM1 next op x s).memView = s.memView := by
  unfold dmaM1
  split <;> simp

theorem memView_configC1 : (configC1 op x s).memView = s.memView := by
  unfold configC1
  split <;> simp

theorem memView_configC4 (next : Label) : (configC4 next op x s).memView = s.memView := by
  unfold configC4
  split <;> simp

/-- The micro-steps of SUBMIT that access a buffer byte, and the cleans; every other one leaves memory and cache. -/
theorem submitMicro_memPath (rx tx : Option Buffer) (cb : Callback) (args : Word) (l : Label) :
    MemPath s (submitMicro rx tx cb args op x s l) := by
  cases l with
  | pw1 | a4w | pw8 => exact ((MemPath.cpuRead s _).trans (.emit _ _)).then_view (memView_goto _ _ _ _)
  | pr4 => exact ((MemPath.of_view (memView_askByte s _)).trans (.cpuWrite _ _ _)).then_view (memView_goto _ _ _ _)
  | pr8 =>
    refine .then_view ?_ (memView_goto _ _ _ _)
    split
    · exact (MemPath.of_view ((memView_choose _).trans (memView_askByte s _))).trans (.cpuWrite _ _ _)
    · exact (MemPath.of_view (memView_askByte s _)).trans (.cpuWrite _ _ _)
  | mw4 | mr4 => exact (MemPath.emit s _).then_view (memView_goto _ _ _ _)
  | f1 =>
    simp only [submitMicro, fifoF1]
    split
    · exact (MemPath.fifoReads x.len.toNat x.buf s).then_view (by simp)
    · exact (((MemPath.of_view (memView_consume s)).trans (.emit _ _)).trans (.fifoStores _ _ _ _)).then_view
        (memView_goto _ _ _ _)
  | pw10 | pr9 | f3 => exact .of_view (memView_transferComplete op x s _)
  | pw11 | pr10 | f4 => exact .of_view (memView_completeSync op x s)
  | a1 => exact .of_view (memView_asyncA1 op x s)
  | mw1 | mr1 => exact .of_view (memView_dmaM1 op x s _)
  | c1 => exact .of_view (memView_configC1 op x s)
  | c4 => exact .of_view (memView_configC4 op x s _)
  | c5 | w1 => exact .refl
  | s2 | s9 | pw2 | pw3 | pw7 | pw9 | pr5 | mr6 | f2 =>
    refine .of_view ?_
    simp only [submitMicro, submitS2, submitS9, pollW2, pollW3, pollW7, pollW9, pollR5, dmaM6r, fifoF2]
    split <;> simp
  | s4 | s5 | pw6 | pr3 | pr7 =>
    refine .of_view ?_
    simp only [submitMicro, submitS4, submitS5, pollW6, pollR3, pollR7]
    split <;> simp
  | s3 =>
    refine .of_view ?_
    simp only [submitMicro, submitS3]
    split
    · simp
    · split <;> simp
  | c2 | c3 | pr1 | pr6 | a2 | a3 | a5w | a4r | a5r | mw3 | mw5 | mw6 | mr3 | mr5 | mr7 =>
    exact (MemPath.emit s _).then_view (memView_goto _ _ _ _)
  | s1 | s6 | pw4 | pw5 | pr2 | a6 | mw2 | mr2 | mw7 | mr8 => exact .of_view rfl

end Submit

section Exec
variable (s : State)

theorem memView_unmatchedIrq (p : Idx) : (unmatchedIrq p s).memView = s.memView := by
  simp [unmatchedIrq]

/-- IRQ_RXRDY stores the received byte (43_async.md R198). -/
theorem rxrdyMatched_memPath (k : Nat) : MemPath s (rxrdyMatched k s) := by
  simp only [rxrdyMatched]
  split
  · have stored : MemPath s ((s.askByte (s.slot k).desc.bus).cpuWrite ((s.slot k).ptr.getD 0) s.answerByte) :=
      (MemPath.of_view (memView_askByte s _)).trans (.cpuWrite _ _ _)
    refine stored.then_view ?_
    split <;> split <;> simp
  · exact .of_view (by simp)

/-- IRQ_TXRDY reads the next byte (43_async.md R199). -/
theorem txrdyMatched_memPath (k : Nat) : MemPath s (txrdyMatched k s) := by
  simp only [txrdyMatched]
  split
  · exact .of_view (by simp)
  · split
    · rename_i a _
      exact (MemPath.cpuRead s a).then_view (by simp)
    · exact .of_view (by simp)

theorem memView_txcompMatched (p : Idx) (k : Nat) : (txcompMatched p k s).memView = s.memView := by
  simp only [txcompMatched]
  split
  · split
    · split <;> simp
    · simp
  · simp

/-- DMA_DONE of a read channel invalidates the region and changes nothing else of memory and cache (44_dma.md R240). -/
theorem memView_doneStep_of_read (c : Idx) (hcb : s.callbackAdmitted (s.desc (s.chan c).desc).callback = true)
    (hdir : (s.chan c).dir = .read) : (doneStep c s).memView =
      (s.emit (.cacheInvalidate (s.desc (s.chan c).desc).regionAddr (s.desc (s.chan c).desc).regionLen)).memView := by
  simp only [doneStep, hcb, if_true, hdir]
  split <;> simp

theorem memView_doneStep_of_write (c : Idx) (hdir : (s.chan c).dir = .write) : (doneStep c s).memView = s.memView := by
  simp only [doneStep, hdir]
  split
  · split <;> simp
  · rfl

theorem doneStep_memPath (c : Idx) : MemPath s (doneStep c s) := by
  cases hdir : (s.chan c).dir with
  | write => exact .of_view (memView_doneStep_of_write s c hdir)
  | read =>
    by_cases hcb : s.callbackAdmitted (s.desc (s.chan c).desc).callback = true
    · exact (MemPath.emit s _).then_view (memView_doneStep_of_read s c hcb hdir)
    · rw [doneStep, if_neg hcb]
      exact .of_view (memView_refuse s _)

theorem memView_waitW1 (d : Idx) (x : Locals) : (waitW1 d x s).memView = s.memView := by
  unfold waitW1
  split <;> simp

theorem memView_configC0 (d : Idx) : (configC0 d s).memView = s.memView := by
  unfold configC0
  split <;> simp

theorem memView_submitS0 (op : Instr) (d : Idx) : (submitS0 op d s).memView = s.memView := by
  unfold submitS0
  split <;> simp

variable {s}

theorem exec_memPath {t : State} {i : Instr} (h : exec i s = .next t) : MemPath s t := by
  cases i with
  | configure d =>
    obtain ⟨-, rfl⟩ | ⟨l, x, -, ⟨-, rfl⟩ | ⟨-, rfl⟩ | ⟨-, rfl⟩ | ⟨-, rfl⟩ | ⟨-, rfl⟩⟩ := exec_configure_cases h
    · exact .of_view (memView_configC0 s d)
    · exact .of_view (memView_configC1 _ x s)
    · exact (MemPath.emit s _).then_view (memView_goto _ _ _ _)
    · exact (MemPath.emit s _).then_view (memView_goto _ _ _ _)
    · exact .of_view (memView_configC4 _ x s .c5)
    · exact .of_view (memView_finish s _ _)
  | submit d rx tx cb args =>
    obtain ⟨-, rfl⟩ | ⟨l, x, -, -, -, rfl⟩ := exec_submit_cases h
    · exact .of_view (memView_submitS0 s _ d)
    · exact submitMicro_memPath _ x s rx tx cb args l
  | isBusy d =>
    obtain ⟨-, rfl⟩ := exec_isBusy_cases h
    exact .of_view (memView_finish s _ _)
  | waitUntilIdle d =>
    obtain ⟨-, rfl⟩ | ⟨x, -, rfl⟩ := exec_waitUntilIdle_cases h
    · exact .of_view (memView_waitW1 s d _)
    · exact .of_view (memView_waitW1 s d x)
  | defaultCallback d =>
    obtain ⟨-, rfl⟩ := exec_defaultCallback_cases h
    exact .of_view (by simp)
  | irqRxrdy p =>
    rw [exec_irqRxrdy] at h
    cases h
    split
    · exact rxrdyMatched_memPath s _
    · exact .of_view (memView_unmatchedIrq s p)
  | irqTxrdy p =>
    rw [exec_irqTxrdy] at h
    cases h
    split
    · exact txrdyMatched_memPath s _
    · exact .of_view (memView_unmatchedIrq s p)
  | irqTxcomp p =>
    rw [exec_irqTxcomp] at h
    cases h
    split
    · exact .of_view (memView_txcompMatched s p _)
    · exact .of_view (memView_unmatchedIrq s p)
  | irqNone p =>
    rw [exec_irqNone] at h
    cases h
    split
    · exact .refl
    · exact .of_view (memView_unmatchedIrq s p)
  | dmaDone c =>
    rw [exec_dmaDone] at h
    cases h
    exact doneStep_memPath s c

theorem dmaByteStep_memPath (c : Idx) (s : State) : MemPath s (dmaByteStep c s) := by
  simp only [dmaByteStep]
  split
  · exact ((MemPath.dmaRead s _).trans (.dmaWrite _ _ _)).then_view (memView_modifyChan _ _ _)
  · exact .refl

theorem envFill_memPath (a : Word) (s : State) : MemPath s (envFill a s) := by
  unfold envFill
  split
  · rename_i hc
    exact .single (.fill (Bool.and_eq_true _ _ ▸ hc).1 a)
  · exact .refl

theorem envEvict_memPath (a : Word) (s : State) : MemPath s (envEvict a s) := by
  unfold envEvict
  split
  · exact .single (.evict _)
  · exact .refl

/-- One step changes memory and cache by updates that stand in the history. -/
theorem step_memPath {t : State} (h : step s = .next t) : MemPath s t := by
  obtain ⟨-, -, l, hk⟩ := step_cases h
  refine (MemPath.of_view (memView_setInputs s l)).trans ?_
  cases hk with
  | foreground op l x hf h => exact exec_memPath h
  | command ws more i rest hi hd hm h => exact (MemPath.of_view (memView_drawEvent _ i)).trans (exec_memPath h)
  | refused r h => exact h ▸ .of_view (memView_refuse _ r)
  | rest h => exact h ▸ .refl
  | dmaByte c _ _ h => exact h ▸ dmaByteStep_memPath c _
  | fill a _ _ h => exact h ▸ envFill_memPath a _
  | evict a _ _ h => exact h ▸ envEvict_memPath a _
  | hostDesc d hd hf h => exact h ▸ .of_view rfl
  | hostRead a _ _ h => exact h ▸ .cpuRead _ a
  | hostWrite a v _ _ h => exact h ▸ .cpuWrite _ a v

end Exec
end Sys2Proof.Machine
end

section
/-! What keeps a region coherent (20_memory.md R73): no line that meets it is dirty, and no store touches its lines nor a DMA write its
bytes. -/

namespace Sys2Proof.Machine

/-- No dirty line meets the region. -/
def State.regionClean (s : State) (a n : Word) : Prop :=
  ∀ la l, meets s.cfg a.toNat n.toNat la = true → assocGet s.cache la = some l → l.state = .clean

/-- An access that leaves the region's bytes in memory: a store to none of its lines, a DMA write to none of its bytes, or a read. -/
def Event.spares (cfg : Config) (a n : Word) : Event → Prop
  | .cpuWrite z _ => ¬ meets cfg a.toNat n.toNat (lineBase cfg z.toNat) = true
  | .dmaWrite z _ => ¬ (a.toNat ≤ z.toNat ∧ z.toNat < a.toNat + n.toNat)
  | _ => True

/-- A byte the DMA engine read in the region, at no receive-holding register, is the one of memory `m`. -/
def Event.readsFrom (cfg : Config) (a n : Word) (m : Memory) : Event → Prop
  | .dmaRead z v => a.toNat ≤ z.toNat → z.toNat < a.toNat + n.toNat → Config.rhrBus? cfg z = none → v = Memory.read m z.toNat
  | _ => True

/-- What `v` has kept of `u` over the region while the accesses `es` were made. -/
structure RegionKept (a n : Word) (u : State) (es : List Event) (v : State) : Prop where
  clean : v.regionClean a n
  mem : ∀ k, a.toNat ≤ k → k < a.toNat + n.toNat → Memory.read v.mem k = Memory.read u.mem k
  reads : ∀ e ∈ es, e.readsFrom u.cfg a n u.mem

variable {a n : Word} {u v : State}

theorem regionClean_congr (hc : v.cfg = u.cfg) (hk : ∀ la l, meets u.cfg a.toNat n.toNat la = true →
    assocGet v.cache la = some l → ∃ l', assocGet u.cache la = some l' ∧ (l'.state = .clean → l.state = .clean))
    (h : u.regionClean a n) : v.regionClean a n := by
  intro la l hm hl
  rw [hc] at hm
  obtain ⟨l', hl', hst⟩ := hk la l hm hl
  exact hst (h la l' hm hl')

/-- In a clean region the line of an address of it is clean. -/
theorem regionClean_line {k : Nat} {l : Line} (h : u.regionClean a n) (h0 : 0 < u.cfg.cacheLine) (h1 : a.toNat ≤ k)
    (h2 : k < a.toNat + n.toNat) (hl : assocGet u.cache (lineBase u.cfg k) = some l) : l.state = .clean :=
  h _ l (meets_lineBase h0 h1 h2) hl

theorem regionClean_fillLine (b : Word) (h : u.regionClean a n) : (u.fillLine b.toNat).regionClean a n := by
  intro la l hm hl
  by_cases hb : la = lineBase u.cfg b.toNat
  · subst hb
    rw [fillLine_cache, assocGet_put_same] at hl
    cases hl
    rfl
  · rw [fillLine_cache, assocGet_put_ne _ _ _ _ hb] at hl
    exact h la l hm hl

theorem regionClean_store {b : Word} (v : Byte) (hb : ¬ meets u.cfg a.toNat n.toNat (lineBase u.cfg b.toNat) = true)
    (h : u.regionClean a n) : (u.store b v).regionClean a n := by
  intro la l hm hl
  rw [store_cfg] at hm
  rw [assocGet_store_ne v (by rintro rfl; exact hb hm)] at hl
  exact h la l hm hl

/-- A store to none of a region's lines is to none of its bytes. -/
theorem ne_of_not_meets {cfg : Config} {b : Word} {k : Nat} (h0 : 0 < cfg.cacheLine)
    (hb : ¬ meets cfg a.toNat n.toNat (lineBase cfg b.toNat) = true) (h1 : a.toNat ≤ k) (h2 : k < a.toNat + n.toNat) :
    k ≠ b.toNat := by
  rintro rfl
  exact hb (meets_lineBase h0 h1 h2)

theorem memAccesses_of_hist (h : v.hist = u.hist) : v.memAccesses = u.memAccesses := by simp only [State.memAccesses, h]

/-- One update that spares the region keeps it. -/
theorem MemStep.keeps_region (h : MemStep u v) (hw : u.cfg.wf = true) (hs : u.memOk) :
    ∃ es, v.memAccesses = u.memAccesses ++ es ∧ v.cfg = u.cfg ∧ v.memOk ∧
      (u.regionClean a n → (∀ e ∈ es, e.spares u.cfg a n) → RegionKept a n u es v) := by
  obtain ⟨h0, h32⟩ := Config.wf_line hw
  cases h with
  | quiet h =>
    obtain ⟨hcfg, hmem, hcache, hacc⟩ := eq_of_memView h
    refine ⟨[], by simp [hacc], hcfg, memOk_congr hcfg hcache hmem hs, fun hc _ => ⟨?_, by simp [hmem], by simp⟩⟩
    simpa only [State.regionClean, hcfg, hcache] using hc
  | fill hd b =>
    exact ⟨[], by simp [State.memAccesses], rfl, memOk_fillLine hd b.isLt hs,
      fun hc _ => ⟨regionClean_fillLine b hc, fun _ _ _ => rfl, by simp⟩⟩
  | evict b =>
    refine ⟨[], by simp [State.memAccesses], rfl, memOk_evictLine ⟨h0, h32⟩ b hs, fun hc _ => ⟨?_, fun k h1 h2 => ?_, by simp⟩⟩
    · exact fun la l hm hl => hc la l hm (assocGet_of_evictLine hl)
    · refine read_evictLine_of_not_dirty h0 hs fun l hl he => regionClean_line hc h0 h1 h2 ?_
      rw [he, ← line?_eq_assocGet hs, hl]
  | clean b m =>
    refine ⟨[], by simp [State.memAccesses], cleanRange_cfg _ _ _, memOk_cleanRange ⟨h0, h32⟩ b m hs,
      fun hc _ => ⟨?_, fun k h1 h2 => ?_, by simp⟩⟩
    · refine regionClean_congr (cleanRange_cfg _ _ _) (fun la l _ hl => ?_) hc
      obtain ⟨l', hl', hst, -⟩ := clean_of_cleanRange hl
      exact ⟨l', hl', hst⟩
    · exact read_cleanRange_of_not_dirty h0 hs fun l hl _ => regionClean_line hc h0 h1 h2 hl
  | invalidate b m =>
    refine ⟨[], by simp [State.memAccesses], invalidateRange_cfg _ _ _, memOk_invalidateRange b m hs,
      fun hc _ => ⟨?_, by simp, by simp⟩⟩
    exact regionClean_congr (invalidateRange_cfg _ _ _) (fun la l _ hl => ⟨l, assocGet_of_invalidateRange hl, id⟩) hc
  | cpuStore b w =>
    refine ⟨[.cpuWrite b w], ?_, store_cfg _ _ _, memOk_store b w hs, fun hc he => ?_⟩
    · rw [memAccesses_record, memAccesses_of_hist (store_hist u b w)]
      rfl
    · have hb : ¬ meets u.cfg a.toNat n.toNat (lineBase u.cfg b.toNat) = true := he _ List.mem_cons_self
      exact ⟨regionClean_store w hb hc, fun k h1 h2 => read_store_ne w (ne_of_not_meets h0 hb h1 h2), by simp [Event.readsFrom]⟩
  | dmaStore b w =>
    refine ⟨[.dmaWrite b w], memAccesses_record _ _, rfl, ⟨Memory.wf_write hs.1 b.isLt, hs.2⟩, fun hc he =>
      ⟨hc, ?_, by simp [Event.readsFrom]⟩⟩
    have hb : ¬ (a.toNat ≤ b.toNat ∧ b.toNat < a.toNat + n.toNat) := he _ List.mem_cons_self
    exact fun k h1 h2 => Memory.read_write_ne _ _ _ _ (by rintro rfl; exact hb ⟨h1, h2⟩)
  | dmaFetch b w hv =>
    refine ⟨[.dmaRead b w], memAccesses_record _ _, rfl, hs, fun hc _ => ⟨hc, fun _ _ _ => rfl, ?_⟩⟩
    simpa [Event.readsFrom] using fun _ _ => hv

/-- What is kept over two stretches is kept over both. -/
theorem RegionKept.trans {w : State} {es fs : List Event} (h : RegionKept a n u es v) (h' : RegionKept a n v fs w)
    (hc : v.cfg = u.cfg) : RegionKept a n u (es ++ fs) w := by
  refine ⟨h'.clean, fun k h1 h2 => (h'.mem k h1 h2).trans (h.mem k h1 h2), fun e he => ?_⟩
  rcases List.mem_append.1 he with he | he
  · exact h.reads e he
  · have hr := h'.reads e he
    cases e with
    | dmaRead z b => exact fun h1 h2 h3 => (hr h1 h2 (hc ▸ h3)).trans (h.mem _ h1 h2)
    | _ => trivial

/-- Updates that spare a clean region keep it. -/
theorem MemPath.keeps_region (h : MemPath u v) (hw : u.cfg.wf = true) (hs : u.memOk) :
    ∃ es, v.memAccesses = u.memAccesses ++ es ∧ v.cfg = u.cfg ∧ v.memOk ∧
      (u.regionClean a n → (∀ e ∈ es, e.spares u.cfg a n) → RegionKept a n u es v) := by
  induction h with
  | refl => exact ⟨[], by simp, rfl, hs, fun hc _ => ⟨hc, fun _ _ _ => rfl, by simp⟩⟩
  | tail _ hstep ih =>
    obtain ⟨es, hacc, hcfg, hmem, hkept⟩ := ih
    obtain ⟨fs, hacc', hcfg', hmem', hkept'⟩ := hstep.keeps_region (a := a) (n := n) (hcfg ▸ hw) hmem
    refine ⟨es ++ fs, by rw [hacc', hacc, List.append_assoc], hcfg'.trans hcfg, hmem', fun hc he => ?_⟩
    have h1 := hkept hc fun e h => he e (List.mem_append_left _ h)
    exact h1.trans (hkept' h1.clean fun e h => hcfg ▸ he e (List.mem_append_right _ h)) hcfg

/-- No bus has its receive-holding register at an address (20_memory.md R61). -/
theorem rhrBus?_eq_none {cfg : Config} {z : Word} (h : ∀ b ∈ cfg.buses, b.rhr ≠ z) : Config.rhrBus? cfg z = none := by
  simpa [Config.rhrBus?, List.findIdx?_eq_none_iff] using h

/-- One step whose accesses spare a clean region keeps it. -/
theorem step_keeps_region {s t : State} {es : List Event} (hw : s.cfg.wf = true) (hs : s.memOk) (h : step s = .next t)
    (hes : t.hist = s.hist ++ es) (hc : s.regionClean a n) (he : ∀ e ∈ es, e.spares s.cfg a n) :
    RegionKept a n s (es.filter Event.isMemAccess) t := by
  obtain ⟨fs, hacc, -, -, hkept⟩ := (step_memPath h).keeps_region (a := a) (n := n) hw hs
  have hfs : fs = es.filter Event.isMemAccess := by simpa [State.memAccesses, hes] using hacc.symm
  subst hfs
  exact hkept hc fun e h => he e (List.mem_of_mem_filter h)

/-- After its own clean a region of at least one byte is clean. -/
theorem regionClean_cleanRange {s : State} (hs : s.memOk) (a : Word) {n : Word} (hn : n ≠ 0) :
    (s.cleanRange a n).regionClean a n := by
  intro la l hm hl
  rw [cleanRange_cfg] at hm
  obtain ⟨l', hl', -, hst⟩ := clean_of_cleanRange hl
  cases hd : s.cfg.dcacheEnabled with
  | true => exact hst hd hn hm
  | false => simp [cache_of_disabled hs hd, assocGet] at hl'

/-- The clean of the DMA set-up, M4 of a write and of a read (44_dma.md R232, R233). -/
theorem exec_dmaM4 {s : State} {d : Idx} {rx tx : Option Buffer} {cb : Callback} {args : Word} {x : Locals} {l : Label}
    (hl : l ∈ [Label.mw4, .mr4]) (hf : s.fg = .busy (.submit d rx tx cb args) l x) :
    ∃ next, exec (.submit d rx tx cb args) s = .next (dmaM4 next (.submit d rx tx cb args) x s) := by
  obtain rfl | rfl : l = .mw4 ∨ l = .mr4 := by simpa using hl
  · exact ⟨.mw5, exec_submit_busy hf (by simp) (by simp)⟩
  · exact ⟨.mr5, exec_submit_busy hf (by simp) (by simp)⟩

end Sys2Proof.Machine
end

section
open Sys2Proof Sys2Proof.Machine

/-- Settles O51: the clean writes the region's dirty lines back; after it each update of memory and cache that spares the region keeps it,
and a step is a path of such updates. -/
theorem dmaWriteCoherent : Obligations.DmaWriteCoherent := by
  intro s t hw hs _ _
  have h0 := (Config.wf_line hw).1
  refine ⟨fun d rx tx cb args x l hx hl hf => ?setUp, fun a n es hc hstep hes hcpu hdma => ?kept⟩
  case setUp =>
    subst hx
    obtain ⟨next, hexec⟩ := exec_dmaM4 hl hf
    let u := s.record (.cmd (.cacheClean (s.desc x.d).regionAddr (s.desc x.d).regionLen))
    have hr : u.memOk := hs
    refine ⟨_, hexec, ?_, fun z => ?_, fun hn la k hm hk => ?_, fun z h1 h2 hz => ?_⟩
    · simp [dmaM4, State.trace, cmdsOf, Event.cmd?]
    · exact cpuByte_cleanRange (s := u) h0 hr _ _ z
    · exact regionClean_cleanRange hr _ hn la k (meets_iff.2 hm) hk
    · exact read_cleanRange_eq_cpuByte (s := u) h0 hr h1 h2 hz
  case kept =>
    have hclean : s.regionClean a n := fun la l hm hl => hc la l (meets_iff.1 hm) hl
    have hspares : ∀ e ∈ es, e.spares s.cfg a n := by
      intro e he
      cases e with
      | cpuWrite z v => exact fun hm => hcpu z v he (meets_iff.1 hm)
      | dmaWrite z v => exact hdma z v he
      | _ => trivial
    have hkept := step_keeps_region hw hs hstep hes hclean hspares
    refine ⟨fun la l hm hl => hkept.clean la l (meets_iff.2 hm) hl, hkept.mem, fun z v he h1 h2 hz => ?_⟩
    exact hkept.reads _ (List.mem_filter.2 ⟨he, rfl⟩) h1 h2 (rhrBus?_eq_none hz)

end

section
/-! The steps of the environment and of CPU code outside the block (20_memory.md R66 to R69): which operation each turn is, and what the
operation leaves. -/

namespace Sys2Proof.Machine

variable {s : State} {more : List Input} {a : Word} {v : Byte}

section Step
variable (hf : s.fault = none) (hr : s.refused = none)
include hf hr

theorem step_of_hostRead (hi : s.inputs = .hostRead a :: more) :
    step s = .next (({ s with inputs := more } : State).cpuRead a) := by
  simp [step, hf, hr, hi, State.popInput]

theorem step_of_hostWrite (hi : s.inputs = .hostWrite a v :: more) :
    step s = .next (({ s with inputs := more } : State).cpuWrite a v) := by
  simp [step, hf, hr, hi, State.popInput]

theorem step_of_fill (hi : s.inputs = .fill a :: more) : step s = .next (envFill a { s with inputs := more }) := by
  simp [step, hf, hr, hi, State.popInput]

theorem step_of_evict (hi : s.inputs = .evict a :: more) : step s = .next (envEvict a { s with inputs := more }) := by
  simp [step, hf, hr, hi, State.popInput]

end Step

/-! ### The allocation -/

theorem allocate_of_not_absent (h : s.cfg.dcacheEnabled = false ∨ s.line? a.toNat ≠ none) : s.allocate a = s := by
  rw [State.allocate, if_neg]
  rcases h with h | h <;> simp [h]

theorem allocate_of_absent (hd : s.cfg.dcacheEnabled = true) (h : s.line? a.toNat = none) :
    s.allocate a = if s.answerBit then s.choose.fillLine a.toNat else s.choose := by
  simp [State.allocate, hd, h]

/-- An allocation keeps every other line. -/
theorem assocGet_allocate_ne {la : Nat} (h : la ≠ lineBase s.cfg a.toNat) :
    assocGet (s.allocate a).cache la = assocGet s.cache la := by
  unfold State.allocate
  split
  · split
    · exact assocGet_put_ne _ _ _ _ h
    · rfl
  · rfl

/-- After the allocation the line is present where it was, or where the drawn bit filled it (20_memory.md R66, R67). -/
theorem line?_allocate_ne_none
    (h : s.line? a.toNat ≠ none ∨ s.cfg.dcacheEnabled = true ∧ s.answerBit = true) : (s.allocate a).line? a.toNat ≠ none := by
  by_cases hl : s.line? a.toNat = none
  · obtain ⟨hd, hb⟩ := h.resolve_left (· hl)
    rw [allocate_of_absent hd hl, if_pos hb, line?_fillLine s.choose _ _ hd, if_pos rfl]
    exact Option.some_ne_none _
  · rwa [allocate_of_not_absent (.inr hl)]

/-- The allocation leaves the line absent, and the cache as it is, where no bit is drawn or the bit is 0. -/
theorem allocate_stays_absent (hl : s.line? a.toNat = none) (hb : s.cfg.dcacheEnabled = true → s.answerBit = false) :
    (s.allocate a).cache = s.cache := by
  cases hd : s.cfg.dcacheEnabled with
  | false => rw [allocate_of_not_absent (.inl hd)]
  | true => rw [allocate_of_absent hd hl, if_neg (by simp [hb hd])]; rfl

/-! ### The CPU's read -/

theorem cpuRead_of_not_absent (h : s.cfg.dcacheEnabled = false ∨ s.line? a.toNat ≠ none) :
    s.cpuRead a = s.record (.cpuRead a (s.cpuByte a)) := by
  rw [State.cpuRead, allocate_of_not_absent h]

/-- A read of an absent line gives memory's byte, and a drawn bit 1 fills the line from memory (20_memory.md R66). -/
theorem cpuRead_of_absent (hd : s.cfg.dcacheEnabled = true) (h : s.line? a.toNat = none) : s.cpuRead a = { s with
    answers := s.answers.tail, drawNo := s.drawNo + 1
    cache := if s.answerBit then
        assocPut s.cache (lineBase s.cfg a.toNat) ⟨.clean, Memory.readBytes s.mem (lineBase s.cfg a.toNat) s.cfg.cacheLine⟩
      else s.cache
    hist := s.hist ++ [.choice (s.answer % 2), .cpuRead a (Memory.read s.mem a.toNat)] } := by
  rw [State.cpuRead, allocate_of_absent hd h, cpuByte_of_absent h]
  split <;> simp [State.record, State.choose, State.consume, State.fillLine]

/-! ### The CPU's write -/

/-- A write with its line absent after the allocation lands in memory (20_memory.md R67). -/
theorem cpuWrite_of_stays_absent (v : Byte) (hl : s.line? a.toNat = none) (hb : s.cfg.dcacheEnabled = true → s.answerBit = false) :
    (s.cpuWrite a v).cache = s.cache ∧ (s.cpuWrite a v).mem = Memory.write s.mem a.toNat v := by
  have hc := allocate_stays_absent hl hb
  have habsent : (s.allocate a).line? a.toNat = none := (line?_congr (allocate_cfg s a) hc _).trans hl
  simp [State.cpuWrite, store_of_absent v habsent, hc]

/-- A write with its line present after the allocation lands in the line, which is dirty (20_memory.md R67). -/
theorem cpuWrite_of_present (v : Byte) (h : (s.allocate a).line? a.toNat ≠ none) :
    (s.cpuWrite a v).mem = s.mem ∧ ∃ l, (s.cpuWrite a v).line? a.toNat = some l ∧ l.state = .dirty := by
  obtain ⟨l, hl⟩ := Option.ne_none_iff_exists'.1 h
  have hd := enabled_of_line? h
  have hst := store_of_present v hl
  refine ⟨by simp [State.cpuWrite, hst], ⟨.dirty, l.data.set (a.toNat - lineBase s.cfg a.toNat) v⟩, ?_, rfl⟩
  rw [line?_of_enabled (by simpa using hd)]
  simp [State.cpuWrite, hst]

/-- A write keeps every other line (20_memory.md R67). -/
theorem assocGet_cpuWrite_ne {la : Nat} (v : Byte) (h : la ≠ lineBase s.cfg a.toNat) :
    assocGet (s.cpuWrite a v).cache la = assocGet s.cache la :=
  (assocGet_store_ne v (by simpa using h)).trans (assocGet_allocate_ne h)

/-- A write changes memory, the cache, the draws and the history. -/
theorem cpuWrite_frame (s : State) (a : Word) (v : Byte) : s.cpuWrite a v = { s with
    cache := (s.cpuWrite a v).cache, mem := (s.cpuWrite a v).mem, answers := (s.cpuWrite a v).answers
    drawNo := (s.cpuWrite a v).drawNo, hist := (s.cpuWrite a v).hist } := by
  unfold State.cpuWrite State.store State.allocate
  split
  · split <;> split <;> rfl
  · split <;> rfl

/-- The CPU's accesses emit no command. -/
theorem trace_cpuWrite (s : State) (a : Word) (v : Byte) : (s.cpuWrite a v).trace = s.trace := by
  have ha : (s.allocate a).trace = s.trace := by
    unfold State.allocate
    split
    · split <;> simp [State.trace, State.choose, cmdsOf, Event.cmd?]
    · rfl
  rw [← ha]
  simp [State.cpuWrite, State.trace, cmdsOf, Event.cmd?]

/-! ### Fills and evictions of the environment -/

theorem envFill_of_absent (hd : s.cfg.dcacheEnabled = true) (h : s.line? a.toNat = none) : envFill a s = s.fillLine a.toNat := by
  simp [envFill, hd, h]

theorem envFill_of_not_absent (h : s.cfg.dcacheEnabled = false ∨ s.line? a.toNat ≠ none) : envFill a s = s := by
  rw [envFill, if_neg]
  rcases h with h | h <;> simp [h]

/-- A fill takes place or not (20_memory.md R68). -/
theorem absent_or_not (s : State) (a : Word) :
    (s.cfg.dcacheEnabled = true ∧ s.line? a.toNat = none) ∨ (s.cfg.dcacheEnabled = false ∨ s.line? a.toNat ≠ none) := by
  cases s.cfg.dcacheEnabled <;> simp [em]

theorem envEvict_eq (hs : s.memOk) (a : Word) : envEvict a s = s.evictLine a.toNat := by
  cases hd : s.cfg.dcacheEnabled with
  | true => simp [envEvict, hd]
  | false =>
    have hc := cache_of_disabled hs hd
    cases s
    subst hc
    simp [envEvict, State.evictLine, writeBack, assocDel]

/-- An eviction changes no byte the CPU sees outside its line (20_memory.md R69). -/
theorem cpuByte_evictLine {z : Word} (h0 : 0 < s.cfg.cacheLine) (hs : s.memOk)
    (h : lineBase s.cfg z.toNat ≠ lineBase s.cfg a.toNat) : (s.evictLine a.toNat).cpuByte z = s.cpuByte z :=
  cpuByte_eq_of_line h0 hs rfl (by rw [line?_evictLine_ne h]) fun _ =>
    read_evictLine_of_not_dirty h0 hs fun _ _ he => absurd he h

/-- An eviction of a dirty line changes no byte the CPU sees (20_memory.md R69). -/
theorem cpuByte_evictLine_of_dirty {l : Line} (h0 : 0 < s.cfg.cacheLine) (hs : s.memOk) (hl : s.line? a.toNat = some l)
    (hdirty : l.state = .dirty) (z : Word) : (s.evictLine a.toNat).cpuByte z = s.cpuByte z := by
  by_cases hz : lineBase s.cfg z.toNat = lineBase s.cfg a.toNat
  · have hlz : s.line? z.toNat = some l := by rw [line?_eq_assocGet hs, hz, ← line?_eq_assocGet hs, hl]
    have habsent : (s.evictLine a.toNat).line? z.toNat = none := by simp [State.line?, hz]
    rw [cpuByte_of_absent habsent, read_evictLine_of_dirty h0 hs hl hdirty hz, cpuByte_of_present hlz]
  · exact cpuByte_evictLine h0 hs hz

/-- An eviction puts its dirty line's bytes in memory (20_memory.md R69). -/
theorem data_evictLine {l : Line} {k : Nat} (h0 : 0 < s.cfg.cacheLine) (hs : s.memOk) (hl : s.line? a.toNat = some l)
    (hdirty : l.state = .dirty) (hk : k < s.cfg.cacheLine) :
    l.data[k]? = some (Memory.read (s.evictLine a.toNat).mem (lineBase s.cfg a.toNat + k)) := by
  have hline : lineBase s.cfg (lineBase s.cfg a.toNat + k) = lineBase s.cfg a.toNat :=
    lineBase_unique (lineBase_mod _ _) (by omega) (by omega)
  have hlen : k < l.data.length := by rwa [length_of_assocGet hs ((line?_eq_assocGet hs _).symm.trans hl)]
  rw [read_evictLine_of_dirty h0 hs hl hdirty hline, hline, Nat.add_sub_cancel_left]
  simp [hlen]

/-- An address outside a line lies in another one. -/
theorem lineBase_ne_of_outside {cfg : Config} (h0 : 0 < cfg.cacheLine) {la z : Nat} (h : z < la ∨ la + cfg.cacheLine ≤ z) :
    lineBase cfg z ≠ la := by
  have := lineBase_le cfg z
  have := lt_lineBase_add h0 z
  omega

end Sys2Proof.Machine
end

section
open Sys2Proof Sys2Proof.Machine

/-- Settles O43: the completion invalidates the region's lines, so each of its bytes is then memory's. -/
theorem dmaDoneCoherent : Obligations.DmaDoneCoherent := by
  intro s c _ _ hw hcb hdir
  obtain ⟨hcfg, hmem, hcache, -⟩ := eq_of_memView (memView_doneStep_of_read s c hcb hdir)
  refine ⟨_, exec_dmaDone s c, hmem.trans (invalidateRange_mem _ _ _), fun a h1 h2 => ?_⟩
  rw [cpuByte_congr hcfg hcache hmem]
  exact cpuByte_invalidateRange (s := s.record _) (Config.wf_line hw).1 h1 h2

/-- Settles O48: a read or a write allocates by the drawn bit, and then the byte is the present line's or memory's. -/
theorem cpuByteAccess : Obligations.CpuByteAccess := by
  intro s a v more hf hr hw hs la m
  have h0 := (Config.wf_line hw).1
  let u : State := { s with inputs := more }
  have hu : u.memOk := hs
  refine ⟨fun hi => ⟨fun hd => ?off, fun l hd hl => ?present, fun hd hl => ?absent⟩, fun hi => ?write⟩
  case off =>
    rw [step_of_hostRead hf hr hi, cpuRead_of_not_absent (s := u) (.inl hd), cpuByte_of_absent (s := u) (line?_of_disabled hd _)]
    rfl
  case present =>
    have hline : u.line? a.toNat = some l := (line?_of_enabled (s := u) hd _).trans hl
    have hlen : a.toNat - lineBase u.cfg a.toNat < l.data.length := offset_lt_length (s := u) h0 hu hl
    refine ⟨l.data[a.toNat - lineBase u.cfg a.toNat], List.getElem?_eq_getElem hlen, ?_⟩
    rw [step_of_hostRead hf hr hi, cpuRead_of_not_absent (s := u) (.inr (by simp [hline])), cpuByte_of_present hline,
      List.getD_eq_getElem _ _ hlen]
    rfl
  case absent =>
    have hline : u.line? a.toNat = none := (line?_of_enabled (s := u) hd _).trans hl
    rw [step_of_hostRead hf hr hi, cpuRead_of_absent (s := u) hd hline]
    rfl
  case write =>
    exact ⟨u.cpuWrite a v, step_of_hostWrite hf hr hi, fun z => cpuByte_cpuWrite (s := u) h0 hu a z v,
      fun lb hlb => assocGet_cpuWrite_ne v hlb, cpuWrite_of_stays_absent (s := u) v,
      fun h => cpuWrite_of_present v (line?_allocate_ne_none (s := u) h), cpuWrite_frame u a v, trace_cpuWrite u a v⟩

/-- Settles O49: a fill takes its bytes from memory, and an eviction puts a dirty line's bytes there. -/
theorem fillAndEvict : Obligations.FillAndEvict := by
  intro s a more hf hr hw hs la
  have h0 := (Config.wf_line hw).1
  let u : State := { s with inputs := more }
  have hu : u.memOk := hs
  refine ⟨fun hi => ⟨_, step_of_fill hf hr hi, ?fill⟩, fun hi => ⟨_, step_of_evict hf hr hi, ?evict⟩⟩
  case fill =>
    obtain ⟨hd, hl⟩ | hno := absent_or_not u a
    · rw [envFill_of_absent (s := u) hd hl]
      refine ⟨rfl, cpuByte_fillLine (s := u) h0 hd hl, fun lb hlb => assocGet_put_ne _ _ _ _ hlb, fun _ _ => ?_,
        fun h => absurd hl (h.resolve_left (by simpa using hd))⟩
      exact (line?_fillLine u _ _ hd).trans (if_pos rfl)
    · rw [envFill_of_not_absent (s := u) hno]
      exact ⟨rfl, fun _ => rfl, fun _ _ => rfl, fun hd hl => absurd hl (hno.resolve_left (by simpa using hd)), fun _ => rfl⟩
  case evict =>
    rw [envEvict_eq hu]
    refine ⟨rfl, line?_evictLine_same u _, fun lb hlb => assocGet_del_ne _ _ _ hlb, fun z hz => ?seen,
      fun l k hl hdirty hk => data_evictLine (s := u) h0 hu hl hdirty hk, fun z hz => ?kept⟩
    case seen =>
      rcases hz with hz | hz | ⟨l, hl, hdirty⟩
      · exact cpuByte_evictLine (s := u) h0 hu (lineBase_ne_of_outside h0 (.inl hz))
      · exact cpuByte_evictLine (s := u) h0 hu (lineBase_ne_of_outside h0 (.inr hz))
      · exact cpuByte_evictLine_of_dirty (s := u) h0 hu hl hdirty z
    case kept =>
      refine read_evictLine_of_not_dirty (s := u) h0 hu fun l hl he => ?_
      have hl : s.line? a.toNat = some l := hl
      rcases hz with hz | ⟨l', hl', hclean⟩ | hz
      · simp [hz] at hl
      · rw [hl'] at hl
        cases hl
        exact hclean
      · exact absurd he (lineBase_ne_of_outside h0 hz)

/-- Settles O50: the clean maps the lines of the range and writes back the dirty ones; the invalidate filters them out. -/
theorem cleanAndInvalidate : Obligations.CleanAndInvalidate := by
  intro s a n hw hs _
  have h0 := (Config.wf_line hw).1
  refine ⟨fun hoff => ⟨cleanRange_of_off hoff, invalidateRange_of_off hoff⟩, fun hd hn =>
    ⟨fun la => ?lines, fun z => ?mem, fun la => ?removed, invalidateRange_mem s a n⟩⟩
  case lines =>
    have hg := assocGet_cleanRange (s := s) (a := a) hd hn la
    refine ⟨fun hm => hg.trans ?_, fun hm => hg.trans ?_⟩
    · rw [meets_iff.2 hm]
      rfl
    · rw [Bool.eq_false_iff.2 (mt meets_iff.1 hm)]
      exact Option.map_id_apply
  case mem =>
    change Memory.read (s.cleanRange a n).mem z.toNat = match assocGet s.cache (lineBase s.cfg z.toNat) with
      | some ⟨.dirty, data⟩ => _
      | _ => _
    have kept := read_cleanRange_of_not_dirty (a := a) (n := n) (k := z.toNat) h0 hs
    cases hl : assocGet s.cache (lineBase s.cfg z.toNat) with
    | none => exact kept (by simp [hl])
    | some l =>
      obtain ⟨state, data⟩ := l
      cases state with
      | clean => exact kept (by simp [hl])
      | dirty =>
        dsimp only
        split
        · rename_i hm
          exact read_cleanRange_of_dirty h0 hs hd hn hl (meets_iff.2 hm) rfl 0
        · rename_i hm
          exact kept fun _ _ h => absurd (meets_iff.1 h) hm
  case removed =>
    have hg := assocGet_invalidateRange (s := s) (a := a) hd hn la
    exact ⟨fun hm => hg.trans (if_pos (meets_iff.2 hm)), fun hm => hg.trans (if_neg (mt meets_iff.1 hm))⟩

end

section
/-! The fields of a header and of a callback word taken arithmetically (30_encoding.md R91, R95): `v / 2 ^ k % 2` is bit `k`. -/

namespace Sys2Proof

theorem hdrOp_toNat (h : Word) : (hdrOp h).toNat = h.toNat % 256 := by
  simp [hdrOp, BitVec.extractLsb'_toNat]

theorem hdrArg_toNat (h : Word) : (hdrArg h).toNat = h.toNat / 256 % 256 := by
  simp [hdrArg, BitVec.extractLsb'_toNat, Nat.shiftRight_eq_div_pow]

theorem getLsbD_eq_decide (w : Word) (k : Nat) : w.getLsbD k = decide (w.toNat / 2 ^ k % 2 = 1) :=
  Nat.testBit_eq_decide_div_mod_eq

theorem getLsbD_eq_false_iff (w : Word) (k : Nat) : w.getLsbD k = false ↔ w.toNat / 2 ^ k % 2 = 0 := by
  rw [getLsbD_eq_decide, decide_eq_false_iff_not, Nat.mod_two_not_eq_one]

theorem hdrRsv_eq_zero_iff (h : Word) : hdrRsv h = 0#14 ↔ h.toNat / 2 ^ 18 = 0 := by
  have hlt := h.isLt
  rw [← BitVec.toNat_inj]
  simp only [hdrRsv, BitVec.extractLsb'_toNat, Nat.shiftRight_eq_div_pow, BitVec.toNat_ofNat]
  omega

theorem knowsPid_eq_false_iff {cfg : Config} {p : Idx} :
    cfg.knowsPid p = false ↔ ∀ b ∈ cfg.buses, b.pid.toNat ≠ p.toNat := by
  simp [Config.knowsPid, BitVec.toNat_inj]

/-! ### Which opcode a code stands for (R92), by the lists of R103 -/

theorem ofCode_eq_none_iff (c : BitVec 8) : Opcode.ofCode c = none ↔
    c.toNat ∉ [0x01, 0x02, 0x03, 0x04, 0x05, 0x10, 0x11, 0x12, 0x13, 0x20] := by
  simp [Opcode.ofCode, Opcode.all, Opcode.code, ← BitVec.toNat_inj, @eq_comm _ c.toNat]

/-- The opcode of a legal code (R101). -/
theorem exists_code_eq {c : BitVec 8} (hc : Opcode.ofCode c ≠ none) : ∃ o : Opcode, c = o.code := by
  obtain ⟨o, ho⟩ := Option.ne_none_iff_exists'.1 hc
  exact ⟨o, (code_of_ofCode ho).symm⟩

theorem code_mem_iff_foreground (o : Opcode) : o.code.toNat ∈ [0x01, 0x02, 0x03, 0x04, 0x05] ↔ o.foreground = true := by
  cases o <;> decide

theorem code_eq_iff_submit (o : Opcode) : o.code.toNat = 0x02 ↔ o = .submit := by
  cases o <;> decide

theorem code_mem_iff_interrupt (o : Opcode) : o.code.toNat ∈ [0x10, 0x11, 0x12, 0x13] ↔ o.format = .fi := by
  cases o <;> decide

theorem code_eq_iff_dmaDone (o : Opcode) : o.code.toNat = 0x20 ↔ o = .dmaDone := by
  cases o <;> decide

/-! ### The words of SUBMIT -/

/-- A buffer whose presence is bit `k` of `h` is refused just where the bit is 0 and a word of the buffer is not (R94). -/
theorem decodeBuffer_getLsbD (h : Word) (k : Nat) (a n : Word) : decodeBuffer (h.getLsbD k) a n =
    if h.toNat / 2 ^ k % 2 = 0 ∧ (a.toNat ≠ 0 ∨ n.toNat ≠ 0) then none
    else some (if h.toNat / 2 ^ k % 2 = 1 then some ⟨a, n⟩ else none) := by
  rw [getLsbD_eq_decide]
  rcases Nat.mod_two_eq_zero_or_one (h.toNat / 2 ^ k) with hb | hb
  · by_cases hw : a.toNat = 0 ∧ n.toNat = 0
    · simp [decodeBuffer, hb, ← BitVec.toNat_inj, hw]
    · simp [decodeBuffer, hb, ← BitVec.toNat_inj, hw, ← not_and_or]
  · simp [decodeBuffer, hb]

/-- R95's checks of a callback word, and the reference it stands for. -/
theorem callback_decode_eq (w : Word) : Callback.decode w =
    if w.toNat % 4 = 3 ∨ w.toNat / 8 % 32 ≠ 0 ∨ w.toNat % 4 ≠ 2 ∧ (w.toNat / 4 % 2 ≠ 0 ∨ w.toNat / 256 ≠ 0) then none
    else some (if w.toNat % 4 = 0 then .none else if w.toNat % 4 = 1 then .default
      else .user (BitVec.ofNat 24 (w.toNat / 256)) (decide (w.toNat / 4 % 2 = 1))) := by
  have hlt := w.isLt
  have hkind (k : BitVec 2) : w.extractLsb' 0 2 = k ↔ w.toNat % 4 = k.toNat := by
    simp [← BitVec.toNat_inj, BitVec.extractLsb'_toNat]
  have hzero : w.extractLsb' 3 5 = 0#5 ↔ w.toNat / 8 % 32 = 0 := by
    simp [← BitVec.toNat_inj, BitVec.extractLsb'_toNat, Nat.shiftRight_eq_div_pow]
  have huid : w.extractLsb' 8 24 = BitVec.ofNat 24 (w.toNat / 256) := by
    simp [← BitVec.toNat_inj, BitVec.extractLsb'_toNat, Nat.shiftRight_eq_div_pow]
  have huid0 : BitVec.ofNat 24 (w.toNat / 256) = 0#24 ↔ w.toNat / 256 = 0 := by
    simp only [← BitVec.toNat_inj, BitVec.toNat_ofNat]
    omega
  simp only [Callback.decode, ne_eq, hkind, hzero, huid, huid0, getLsbD_eq_decide, decide_eq_true_eq, BitVec.toNat_ofNat,
    Nat.reducePow, Nat.reduceMod]
  grind

end Sys2Proof
end

section
/-! The decoder in two parts: the header's checks (30_encoding.md R101, R103), and the operands of the opcode's format (R93, R94, R95).
What each part admits and what it refuses. -/

namespace Sys2Proof

variable {cfg : Config} {h : Word} {ws rest : List Word} {i : Instr} {o : Opcode}

/-- The header passes the checks of R103 that come before its operands, as a header of the opcode `o`. -/
def HeaderOk (o : Opcode) (h : Word) : Prop :=
  hdrOp h = o.code ∧ hdrRsv h = 0#14 ∧ (o ≠ .submit → hdrRxp h = false ∧ hdrTxp h = false)

/-- The operands of a command whose header passes the checks before them: `case format(op)` of R103. -/
def decodeOperands (cfg : Config) (h : Word) (ws : List Word) : Opcode → Except Reject (Instr × List Word)
  | .configure => decodeDesc cfg h .configure ws
  | .submit => decodeSubmit cfg h ws
  | .isBusy => decodeDesc cfg h .isBusy ws
  | .waitUntilIdle => decodeDesc cfg h .waitUntilIdle ws
  | .defaultCallback => decodeDesc cfg h .defaultCallback ws
  | .irqRxrdy => decodePid cfg h .irqRxrdy ws
  | .irqTxrdy => decodePid cfg h .irqTxrdy ws
  | .irqTxcomp => decodePid cfg h .irqTxcomp ws
  | .irqNone => decodePid cfg h .irqNone ws
  | .dmaDone => decodeChan cfg h .dmaDone ws

/-- The first of a list of checks, as R103 writes them: it fails and gives its answer, or the checks after it decide. -/
theorem check_cases {α : Type} {p : Prop} [Decidable p] {f x y : α} (h : (if p then x else y) = f) :
    p ∧ x = f ∨ ¬ p ∧ y = f := by
  split at h
  · exact .inl ⟨‹_›, h⟩
  · exact .inr ⟨‹_›, h⟩

/-! ### The header -/

theorem decode_of_illegalOpcode (ho : Opcode.ofCode (hdrOp h) = none) :
    decode cfg (h :: ws) = .error .illegalOpcode := by
  simp only [decode, ho]

theorem decode_of_reservedBits (ho : hdrOp h = o.code) (hr : hdrRsv h ≠ 0#14) :
    decode cfg (h :: ws) = .error .reservedBits := by
  simp only [decode, ho, ofCode_code, if_pos hr]

theorem decode_of_bufferBits (ho : hdrOp h = o.code) (hn : o ≠ .submit) (hb : ¬ (hdrRxp h = false ∧ hdrTxp h = false)) :
    decode cfg (h :: ws) = .error .reservedBits := by
  have hb : (hdrRxp h || hdrTxp h) = true := by simpa [-not_and, not_and_or] using hb
  simp [decode, ho, hn, hb]

theorem decode_of_headerOk (hk : HeaderOk o h) : decode cfg (h :: ws) = decodeOperands cfg h ws o := by
  obtain ⟨ho, hr, hb⟩ := hk
  cases o with
  | submit => simp [decode, ho, hr, decodeOperands]
  | _ =>
    obtain ⟨hrx, htx⟩ := hb (by decide)
    simp [decode, ho, hr, hrx, htx, decodeOperands]

/-- The header of a command the decoder admits passes the checks. -/
theorem headerOk_of_decode (hd : decode cfg (h :: ws) = .ok (i, rest)) : ∃ o, HeaderOk o h := by
  cases hc : Opcode.ofCode (hdrOp h) with
  | none => simp [decode_of_illegalOpcode hc] at hd
  | some o =>
    have ho := (code_of_ofCode hc).symm
    refine ⟨o, ho, ?_, fun hn => ?_⟩
    · by_contra hr
      simp [decode_of_reservedBits ho hr] at hd
    · by_contra hb
      simp [decode_of_bufferBits ho hn hb] at hd

/-- Outside format FS a header that passes the checks is its opcode and its argument (R91). -/
theorem HeaderOk.eq_header (hk : HeaderOk o h) (hn : o ≠ .submit) : h = header o.code (hdrArg h) false false := by
  obtain ⟨ho, hr, hb⟩ := hk
  obtain ⟨hrx, htx⟩ := hb hn
  simpa [ho, hrx, htx] using (header_of_fields h hr).symm

/-! ### The operands -/

theorem decodeDesc_of_lt {mk : Idx → Instr} (hd : (hdrArg h).toNat < cfg.nDesc) :
    decodeDesc cfg h mk ws = .ok (mk (hdrArg h), ws) := if_pos hd

theorem decodeDesc_of_le {mk : Idx → Instr} (hd : cfg.nDesc ≤ (hdrArg h).toNat) :
    decodeDesc cfg h mk ws = .error .badDesc := if_neg (not_lt.2 hd)

theorem decodePid_of_known {mk : Idx → Instr} (hp : cfg.knowsPid (hdrArg h) = true) :
    decodePid cfg h mk ws = .ok (mk (hdrArg h), ws) := if_pos hp

theorem decodePid_of_unknown {mk : Idx → Instr} (hp : cfg.knowsPid (hdrArg h) = false) :
    decodePid cfg h mk ws = .error .unknownPid := if_neg (Bool.eq_false_iff.1 hp)

theorem decodeChan_of_lt {mk : Idx → Instr} (hc : (hdrArg h).toNat < cfg.nDmaCh) :
    decodeChan cfg h mk ws = .ok (mk (hdrArg h), ws) := if_pos hc

theorem decodeChan_of_le {mk : Idx → Instr} (hc : cfg.nDmaCh ≤ (hdrArg h).toNat) :
    decodeChan cfg h mk ws = .error .badChannel := if_neg (not_lt.2 hc)

/-- What a check that refuses with one code admits is the value it guards. -/
theorem eq_of_ite_eq_ok {α ε : Type} {p : Prop} [Decidable p] {x y : α} {e : ε}
    (h : (if p then Except.ok x else .error e) = .ok y) : y = x := by
  obtain ⟨-, hx⟩ | ⟨-, he⟩ := check_cases h
  · exact (Except.ok.inj hx).symm
  · cases he

theorem decodeDesc_inv {mk : Idx → Instr} (hd : decodeDesc cfg h mk ws = .ok (i, rest)) : (i, rest) = (mk (hdrArg h), ws) :=
  eq_of_ite_eq_ok hd

theorem decodePid_inv {mk : Idx → Instr} (hd : decodePid cfg h mk ws = .ok (i, rest)) : (i, rest) = (mk (hdrArg h), ws) :=
  eq_of_ite_eq_ok hd

theorem decodeChan_inv {mk : Idx → Instr} (hd : decodeChan cfg h mk ws = .ok (i, rest)) : (i, rest) = (mk (hdrArg h), ws) :=
  eq_of_ite_eq_ok hd

/-! ### The six words of SUBMIT -/

section
variable {rx tx : Option Buffer} {cb : Callback}

theorem decodeSubmit_of_le (hd : cfg.nDesc ≤ (hdrArg h).toNat) : decodeSubmit cfg h ws = .error .badDesc := by
  unfold decodeSubmit
  split <;> exact if_neg (not_lt.2 hd)

theorem decodeSubmit_of_some (hl : 6 ≤ ws.length) (hd : (hdrArg h).toNat < cfg.nDesc)
    (hrx : decodeBuffer (hdrRxp h) (ws.getD 0 0) (ws.getD 1 0) = some rx)
    (htx : decodeBuffer (hdrTxp h) (ws.getD 2 0) (ws.getD 3 0) = some tx)
    (hcb : Callback.decode (ws.getD 4 0) = some cb) :
    decodeSubmit cfg h ws = .ok (.submit (hdrArg h) rx tx cb (ws.getD 5 0), ws.drop 6) := by
  match ws, hl with
  | rxb :: rxl :: txb :: txl :: cbw :: args :: rest, _ =>
    simp only [List.getD_cons_zero, List.getD_cons_succ] at hrx htx hcb
    simp [decodeSubmit, hd, hrx, htx, hcb]

theorem decodeSubmit_of_none (hl : 6 ≤ ws.length) (hd : (hdrArg h).toNat < cfg.nDesc)
    (hw : decodeBuffer (hdrRxp h) (ws.getD 0 0) (ws.getD 1 0) = none ∨
      decodeBuffer (hdrTxp h) (ws.getD 2 0) (ws.getD 3 0) = none ∨ Callback.decode (ws.getD 4 0) = none) :
    decodeSubmit cfg h ws = .error .reservedBits := by
  match ws, hl with
  | rxb :: rxl :: txb :: txl :: cbw :: args :: rest, _ =>
    simp only [List.getD_cons_zero, List.getD_cons_succ] at hw
    simp only [decodeSubmit, if_pos hd]
    split
    · simp_all
    · rfl

/-- What a SUBMIT that is admitted was read from: its words are all there, and its operands are those the words stand for. -/
theorem decodeSubmit_inv (hd : decodeSubmit cfg h ws = .ok (i, rest)) :
    ∃ rxb rxl txb txl cbw args rx tx cb, ws = rxb :: rxl :: txb :: txl :: cbw :: args :: rest ∧
      i = .submit (hdrArg h) rx tx cb args ∧ decodeBuffer (hdrRxp h) rxb rxl = some rx ∧
      decodeBuffer (hdrTxp h) txb txl = some tx ∧ Callback.decode cbw = some cb := by
  unfold decodeSubmit at hd
  split at hd
  · split at hd
    · split at hd
      · rename_i hrx htx hcb
        cases hd
        exact ⟨_, _, _, _, _, _, _, _, _, rfl, rfl, hrx, htx, hcb⟩
      · cases hd
    · cases hd
  · split at hd <;> cases hd

end

/-! ### The checks of a format's operands -/

theorem decodeOperands_of_foreground (hf : o.foreground = true) (hd : cfg.nDesc ≤ (hdrArg h).toNat) :
    decodeOperands cfg h ws o = .error .badDesc := by
  cases o with
  | configure | isBusy | waitUntilIdle | defaultCallback => exact decodeDesc_of_le hd
  | submit => exact decodeSubmit_of_le hd
  | irqRxrdy | irqTxrdy | irqTxcomp | irqNone | dmaDone => cases hf

theorem decodeOperands_of_unknownPid (hf : o.format = .fi) (hp : cfg.knowsPid (hdrArg h) = false) :
    decodeOperands cfg h ws o = .error .unknownPid := by
  cases o with
  | irqRxrdy | irqTxrdy | irqTxcomp | irqNone => exact decodePid_of_unknown hp
  | configure | submit | isBusy | waitUntilIdle | defaultCallback | dmaDone => cases hf

/-! ### The words of what is admitted -/

theorem words_of_decodeSubmit (hk : HeaderOk .submit h) (hd : decodeSubmit cfg h ws = .ok (i, rest)) :
    h :: ws = encode i ++ rest := by
  obtain ⟨rxb, rxl, txb, txl, cbw, args, rx, tx, cb, rfl, rfl, hrx, htx, hcb⟩ := decodeSubmit_inv hd
  obtain ⟨ho, hr, -⟩ := hk
  obtain ⟨erx, prx⟩ := encodeBuffer_of_decode hrx
  obtain ⟨etx, ptx⟩ := encodeBuffer_of_decode htx
  have hh : header Opcode.submit.code (hdrArg h) rx.isSome tx.isSome = h := by
    rw [← ho, prx, ptx, header_of_fields h hr]
  simp [encode, erx, etx, hh, callback_encode_of_decode hcb]

theorem words_of_decode (hd : decode cfg ws = .ok (i, rest)) : ws = encode i ++ rest := by
  cases ws with
  | nil => cases hd
  | cons h ws =>
    obtain ⟨o, hk⟩ := headerOk_of_decode hd
    rw [decode_of_headerOk hk] at hd
    cases o with
    | submit => exact words_of_decodeSubmit hk hd
    | configure | isBusy | waitUntilIdle | defaultCallback =>
      cases decodeDesc_inv hd
      exact congrArg (· :: rest) (hk.eq_header (by decide))
    | irqRxrdy | irqTxrdy | irqTxcomp | irqNone =>
      cases decodePid_inv hd
      exact congrArg (· :: rest) (hk.eq_header (by decide))
    | dmaDone =>
      cases decodeChan_inv hd
      exact congrArg (· :: rest) (hk.eq_header (by decide))

end Sys2Proof
end

section
open Sys2Proof Sys2Proof.Machine

/-- Settles O2: every field of the header, of the buffers and of the callback word is read back. -/
theorem decodeOfEncode : Obligations.DecodeOfEncode := fun _ _ rest hw => decode_encode hw rest

/-- Settles O3: a header that passes the checks is made of its fields, and so are the operand words. -/
theorem encodeOfDecode : Obligations.EncodeOfDecode := fun _ _ _ _ hd => ⟨wf_of_decode hd, words_of_decode hd⟩

/-- Settles O1: the lines are assembled by evaluation, and the words are those of well-formed operations, which are read back. -/
theorem workedEncodings : Obligations.WorkedEncodings := by
  refine ⟨by decide, by decide, by decide, by decide, by decide, fun cfg hdesc hpid hchan => ?_⟩
  have h0 : (0 : Idx).toNat < cfg.nDesc := Nat.lt_of_lt_of_le (by decide) hdesc
  have h1 : (1 : Idx).toNat < cfg.nDesc := Nat.lt_of_lt_of_le (by decide) hdesc
  have h3 : (3 : Idx).toNat < cfg.nDesc := Nat.lt_of_lt_of_le (by decide) hdesc
  have h2 : (2 : Idx).toNat < cfg.nDmaCh := Nat.lt_of_lt_of_le (by decide) hchan
  exact ⟨decode_encode (i := .submit 0 none (some ⟨0x20000000, 1⟩) .default 0) (decide_eq_true h0) [],
    decode_encode (i := .submit 1 (some ⟨0x20001000, 3⟩) none (.user 5 true) 0) (decide_eq_true h1) [],
    decode_encode (i := .irqTxrdy 19) hpid [],
    decode_encode (i := .dmaDone 2) (decide_eq_true h2) [],
    decode_encode (i := .configure 3) (decide_eq_true h3) []⟩

/-- Settles O4: the checks are taken one by one in the order of R103, each against the part of the decoder that makes it. -/
theorem decodeProcedure : Obligations.DecodeProcedure := by
  intro cfg h ws op arg rxp txp w hlen refusal
  have hop : (hdrOp h).toNat = op := hdrOp_toNat h
  have harg : (hdrArg h).toNat = arg := hdrArg_toNat h
  have hbits : hdrRxp h = false ∧ hdrTxp h = false ↔ ¬ (rxp ≠ 0 ∨ txp ≠ 0) := by
    rw [hdrRxp, hdrTxp, getLsbD_eq_false_iff, getLsbD_eq_false_iff, not_or, not_not, not_not]
  have hrx := decodeBuffer_getLsbD h 16 (ws.getD 0 0) (ws.getD 1 0)
  have htx := decodeBuffer_getLsbD h 17 (ws.getD 2 0) (ws.getD 3 0)
  have hcb := callback_decode_eq (ws.getD 4 0)
  clear_value op arg
  generalize hf : refusal = f
  obtain ⟨hill, rfl⟩ | ⟨hlegal, hf⟩ := check_cases hf
  · exact decode_of_illegalOpcode ((ofCode_eq_none_iff _).2 (hop ▸ hill))
  obtain ⟨o, ho⟩ := exists_code_eq (mt (ofCode_eq_none_iff _).1 (hop ▸ hlegal))
  obtain rfl : o.code.toNat = op := ho ▸ hop
  simp only [ne_eq, code_mem_iff_foreground, code_eq_iff_submit, code_mem_iff_interrupt, code_eq_iff_dmaDone] at hf hlen ⊢
  obtain ⟨hrsv, rfl⟩ | ⟨hrsv, hf⟩ := check_cases hf
  · exact decode_of_reservedBits ho (mt (hdrRsv_eq_zero_iff h).1 hrsv)
  obtain ⟨⟨hn, hb⟩, rfl⟩ | ⟨hb, hf⟩ := check_cases hf
  · exact decode_of_bufferBits ho hn (mt hbits.1 (not_not.2 hb))
  have hk : HeaderOk o h :=
    ⟨ho, (hdrRsv_eq_zero_iff h).2 (not_not.1 hrsv), fun hn => hbits.2 (not_and.1 hb hn)⟩
  rw [decode_of_headerOk hk]
  obtain ⟨⟨hfg, hd⟩, rfl⟩ | ⟨hd, hf⟩ := check_cases hf
  · exact decodeOperands_of_foreground hfg (harg ▸ hd)
  have hdesc (hfg : o.foreground = true) : (hdrArg h).toNat < cfg.nDesc := harg ▸ not_le.1 (not_and.1 hd hfg)
  obtain ⟨⟨rfl, hw⟩, rfl⟩ | ⟨hrxok, hf⟩ := check_cases hf
  · exact decodeSubmit_of_none (hlen rfl) (hdesc rfl) (.inl (hrx.trans (if_pos hw)))
  obtain ⟨⟨rfl, hw⟩, rfl⟩ | ⟨htxok, hf⟩ := check_cases hf
  · exact decodeSubmit_of_none (hlen rfl) (hdesc rfl) (.inr (.inl (htx.trans (if_pos hw))))
  obtain ⟨⟨rfl, hw⟩, rfl⟩ | ⟨hcbok, hf⟩ := check_cases hf
  · exact decodeSubmit_of_none (hlen rfl) (hdesc rfl) (.inr (.inr (hcb.trans (if_pos hw))))
  obtain ⟨⟨hfi, hp⟩, rfl⟩ | ⟨hp, hf⟩ := check_cases hf
  · exact decodeOperands_of_unknownPid hfi (knowsPid_eq_false_iff.2 (harg ▸ hp))
  have hpid (hfi : o.format = .fi) : cfg.knowsPid (hdrArg h) = true :=
    Bool.eq_true_of_not_eq_false fun hu => hp ⟨hfi, harg ▸ knowsPid_eq_false_iff.1 hu⟩
  obtain ⟨⟨rfl, hc⟩, rfl⟩ | ⟨hc, rfl⟩ := check_cases hf
  · exact decodeChan_of_le (harg ▸ hc)
  cases o with
  | configure | isBusy | waitUntilIdle | defaultCallback => exact ⟨_, decodeDesc_of_lt (hdesc rfl), rfl, harg⟩
  | irqRxrdy | irqTxrdy | irqTxcomp | irqNone => exact ⟨_, decodePid_of_known (hpid rfl), rfl, harg⟩
  | dmaDone => exact ⟨_, decodeChan_of_lt (harg ▸ not_le.1 (not_and.1 hc rfl)), rfl, harg⟩
  | submit =>
    rw [if_neg (not_and.1 hrxok rfl)] at hrx
    rw [if_neg (not_and.1 htxok rfl)] at htx
    rw [if_neg (not_and.1 hcbok rfl)] at hcb
    exact ⟨_, decodeSubmit_of_some (hlen rfl) (hdesc rfl) hrx htx hcb, rfl, harg, rfl, rfl, rfl, rfl⟩

end

section
/-! CONFIGURE, the queries and the default callback: what each micro-step writes, and CONFIGURE from its issue to its return
(40_config.md R120 to R125). -/

namespace Sys2Proof.Machine

/-! ### Standing and returning -/

section
variable {s : State}

theorem goto_of_stands {op : Instr} {l : Label} {x : Locals} (h : s.fg = .busy op l x) : s.goto op l x = s := by
  rw [State.goto, ← h]

theorem finish_of_idle (h : s.fg = .idle) (o : Opcode) (r : Option Word) :
    s.finish o r = { s with result := r, hist := s.hist ++ [.ret o r] } := by
  rw [State.finish, ← h]
  rfl

end

/-! ### The micro-steps of CONFIGURE -/

section
variable {s : State} {d : Idx} {x : Locals}

/-- The micro-step of CONFIGURE at a label; the others are none of its. -/
def configureMicro (op : Instr) (x : Locals) (s : State) : Label → State
  | .c1 => configC1 op x s
  | .c2 => configC2 op x s
  | .c3 => configC3 op x s
  | .c4 => configC4 .c5 op x s
  | .c5 => configC5 s
  | _ => s

/-- CONFIGURE is issued. -/
theorem exec_configure_idle (h : s.fg = .idle) (d : Idx) : exec (.configure d) s = .next (configC0 d s) := by
  simp [exec, execConfigure, h]

/-- CONFIGURE stands at a micro-step. -/
theorem exec_configure_busy {l : Label} (h : s.fg = .busy (.configure d) l x) (hl : l ∈ [Label.c1, .c2, .c3, .c4, .c5]) :
    exec (.configure d) s = .next (configureMicro (.configure d) x s l) := by
  simp only [List.mem_cons, List.not_mem_nil, or_false] at hl
  obtain rfl | rfl | rfl | rfl | rfl := hl <;> simp [exec, execConfigure, h, configureMicro]

theorem configC0_of_descOk (h : s.descOk d = true) : configC0 d s = s.goto (.configure d) .c1 (Locals.init d) := if_pos h

theorem configC0_of_not_descOk (h : s.descOk d = false) : configC0 d s = s.refuse .badDescField :=
  if_neg (Bool.eq_false_iff.1 h)

theorem configC2_eq (op : Instr) (x : Locals) (s : State) : configC2 op x s = { s with
    fg := .busy op .c3 x
    ctl := s.ctl.modify (Config.busOf s.cfg (Config.pid s.cfg (s.desc x.d).bus)).toNat (fun y => { y with clk := true })
    hist := s.hist ++ [.cmd (.pmcEnable (Config.pid s.cfg (s.desc x.d).bus))] } := rfl

theorem configC3_eq (op : Instr) (x : Locals) (s : State) : configC3 op x s = { s with
    fg := .busy op .c4 x
    hist := s.hist ++ [.cmd (.twiConfigure (s.desc x.d).bus (s.desc x.d).freq)] } := rfl

theorem configC4_eq (next : Label) (op : Instr) (x : Locals) (s : State) : configC4 next op x s = { s with
    fg := .busy op next x
    hist := s.hist ++
      if (Config.bus s.cfg (s.desc x.d).bus).hasFifo = true ∧ (s.desc x.d).strategy = .fifo then
        [.cmd (.fifoConfig (s.desc x.d).bus (fifoHalf s (s.desc x.d).bus) (fifoHalf s (s.desc x.d).bus))]
      else [] } := by
  unfold configC4 State.busOfDesc
  split
  · rfl
  · rw [List.append_nil]
    rfl

end

/-! ### CONFIGURE as a whole -/

/-- The state CONFIGURE `d` returns in, when it was issued in `s` (40_config.md R120). -/
def State.configured (s : State) (d : Idx) : State := { s with
  fg := .idle
  result := none
  descs := s.descs.modify d.toNat (Desc.withTimeout s.cfg.defaultTimeout)
  ctl := s.ctl.modify (Config.busOf s.cfg (Config.pid s.cfg (s.desc d).bus)).toNat (fun y => { y with clk := true })
  hist := s.hist ++ (configCmds s.cfg (s.desc d)).map Event.cmd ++ [.ret .configure none] }

section
variable {s : State} {d : Idx}

/-- The six micro-steps of CONFIGURE with no other agent's step between them. -/
theorem runOp_configure_idle (hf : s.fg = .idle) (hd : s.descOk d = true) :
    runOp (.configure d) 6 s = .next (s.configured d) := by
  rw [runOp_succ (exec_configure_idle hf d), configC0_of_descOk hd,
    runOp_configure (d := d) (x := Locals.init d) rfl rfl]
  rfl

/-- CONFIGURE keeps what does not read the timeout. -/
theorem desc_configured {β : Type} (s : State) (d d' : Idx) (g : Desc → β) (h : ∀ e t, g { e with timeout := t } = g e) :
    g ((s.configured d).desc d') = g (s.desc d') :=
  desc_modifyDesc_field s d d' g (Desc.withTimeout_keeps _ g h)

theorem descOk_configured (s : State) (d d' : Idx) : (s.configured d).descOk d' = s.descOk d' :=
  descOk_of_target rfl (desc_configured s d d' Desc.target fun _ _ => rfl)

/-- Writing the default timeout a second time changes nothing (40_config.md R121). -/
theorem Desc.withTimeout_withTimeout (dt : Word) (e : Desc) : (e.withTimeout dt).withTimeout dt = e.withTimeout dt := by
  by_cases h : e.timeout = 0
  · have hset : e.withTimeout dt = { e with timeout := dt } := if_pos h
    rw [hset]
    exact ite_self _
  · have hkept : e.withTimeout dt = e := if_neg h
    rw [hkept, hkept]

theorem descs_configured_configured (s : State) (d : Idx) : ((s.configured d).configured d).descs = (s.configured d).descs :=
  (modify_modify _ _ _ _).trans (modify_congr fun e _ => e.withTimeout_withTimeout s.cfg.defaultTimeout)

theorem cmdsOf_append (l m : List Event) : cmdsOf (l ++ m) = cmdsOf l ++ cmdsOf m := List.filterMap_append

theorem cmdsOf_map_cmd (cs : List Cmd) : cmdsOf (cs.map Event.cmd) = cs :=
  List.filterMap_map.trans List.filterMap_some

theorem trace_configured (s : State) (d : Idx) : (s.configured d).trace = s.trace ++ configCmds s.cfg (s.desc d) := by
  simp only [State.trace, State.configured, cmdsOf_append, cmdsOf_map_cmd]
  exact List.append_nil _

end

/-! ### The queries and the default callback -/

section
variable {s : State} {d : Idx} {x : Locals}

theorem exec_isBusy_idle (h : s.fg = .idle) (d : Idx) :
    exec (.isBusy d) s = .next (s.finish .isBusy (some (boolWord (s.desc d).lock))) := by
  simp [exec, execIsBusy, h]

theorem exec_waitUntilIdle_idle (h : s.fg = .idle) (d : Idx) :
    exec (.waitUntilIdle d) s = .next (waitW1 d (Locals.init d) s) := by
  simp [exec, execWaitUntilIdle, h]

theorem exec_waitUntilIdle_w1 (h : s.fg = .busy (.waitUntilIdle d) .w1 x) :
    exec (.waitUntilIdle d) s = .next (waitW1 d x s) := by
  simp [exec, execWaitUntilIdle, h]

theorem waitW1_of_free (h : (s.desc d).lock = false) (x : Locals) : waitW1 d x s = s.finish .waitUntilIdle none :=
  if_neg (Bool.eq_false_iff.1 h)

theorem waitW1_of_held (h : (s.desc d).lock = true) (x : Locals) : waitW1 d x s = s.goto (.waitUntilIdle d) .w1 x := if_pos h

theorem exec_defaultCallback_idle (h : s.fg = .idle) (d : Idx) :
    exec (.defaultCallback d) s = .next ((s.unlock d).finish .defaultCallback none) := by
  simp [exec, execDefaultCallback, h]

end

end Sys2Proof.Machine
end

section
open Sys2Proof Sys2Proof.Machine

/-- Settles O9: C0 splits on the check of the descriptor, and each later label writes what the lemma about its micro-step says. -/
theorem configureMicroSteps : Obligations.ConfigureMicroSteps := by
  rintro s d x rfl
  refine ⟨fun hf hd => ?_, fun hf hd => ?_, fun hf => ?_, fun hf => ?_, fun hf => ?_, fun hf => ?_, fun hf => ?_⟩
  · rw [exec_configure_idle hf, configC0_of_descOk hd]
    rfl
  · rw [exec_configure_idle hf, configC0_of_not_descOk hd]
    rfl
  · exact (exec_configure_busy hf (by decide)).trans (congrArg _ (configC1_eq _ x s))
  · exact (exec_configure_busy hf (by decide)).trans (congrArg _ (configC2_eq _ x s))
  · exact (exec_configure_busy hf (by decide)).trans (congrArg _ (configC3_eq _ x s))
  · exact (exec_configure_busy hf (by decide)).trans (congrArg _ (configC4_eq .c5 _ x s))
  · exact exec_configure_busy hf (by decide)

/-- Settles O10: the run ends in the state CONFIGURE returns in, where `bus_of` finds the descriptor's own bus from its identifier. -/
theorem configureRun : Obligations.ConfigureRun := by
  intro s d hw hf hd b half
  have hbus : Config.busOf s.cfg (Config.pid s.cfg b) = b := by
    simp only [State.descOk, Bool.and_eq_true, decide_eq_true_eq] at hd
    obtain ⟨⟨⟨hb, -⟩, -⟩, -⟩ := hd
    exact busOf_pid hw hb
  have hcmds : (configCmds s.cfg (s.desc d)).map Event.cmd =
      [.cmd (.pmcEnable (Config.pid s.cfg b)), .cmd (.twiConfigure b (s.desc d).freq)] ++
        if (Config.bus s.cfg b).hasFifo = true ∧ (s.desc d).strategy = .fifo then [.cmd (.fifoConfig b half half)] else [] := by
    rw [configCmds, List.map_append, apply_ite (List.map Event.cmd)]
    rfl
  rw [runOp_configure_idle hf hd, State.configured, hcmds, hbus, ← List.append_assoc, ← hf]

/-- Settles O11: the first CONFIGURE changes no field its commands are made of, and a second default timeout changes nothing. -/
theorem configureIdempotent : Obligations.ConfigureIdempotent := by
  intro s d hf hd
  refine ⟨s.configured d, (s.configured d).configured d, configCmds s.cfg (s.desc d), runOp_configure_idle hf hd,
    runOp_configure_idle rfl ((descOk_configured s d d).trans hd), trace_configured s d, ?_, descs_configured_configured s d⟩
  have hsame : configCmds s.cfg ((s.configured d).desc d) = configCmds s.cfg (s.desc d) :=
    desc_configured s d d (configCmds s.cfg) fun _ _ => rfl
  rw [← hsame]
  exact trace_configured (s.configured d) d

/-- Settles O12: B1 returns the lock as a word. -/
theorem isBusyReturnsLock : Obligations.IsBusyReturnsLock := fun _ d hf =>
  (exec_isBusy_idle hf d).trans (congrArg _ (finish_of_idle hf _ _))

/-- Settles O13: W1 is the micro-step at the issue and at the hold, and it reads the lock. -/
theorem waitUntilIdle : Obligations.WaitUntilIdle := by
  intro s d
  refine ⟨fun x hf hfree => ?_, fun hf hheld => ?_, fun x hf hheld => ?_⟩
  · obtain hidle | hw1 := hf
    · exact (exec_waitUntilIdle_idle hidle d).trans (congrArg _ (waitW1_of_free hfree _))
    · exact (exec_waitUntilIdle_w1 hw1).trans (congrArg _ (waitW1_of_free hfree x))
  · exact (exec_waitUntilIdle_idle hf d).trans (congrArg _ (waitW1_of_held hheld _))
  · rw [exec_waitUntilIdle_w1 hf, waitW1_of_held hheld, goto_of_stands hf]

/-- Settles O14: K1 unlocks and returns, and an unlock of a free lock changes nothing. -/
theorem defaultCallbackFreesLock : Obligations.DefaultCallbackFreesLock := fun s d hf =>
  ⟨(exec_defaultCallback_idle hf d).trans (congrArg _ (finish_of_idle (s := s.unlock d) hf _ _)),
    fun hfree => congrArg State.descs (unlock_of_free hfree)⟩

end

section
/-! The mode selector of SUBMIT: what S0 to S6 and S9 write (41_dispatch.md R140 to R150), and the runs that end before an engine does. -/

namespace Sys2Proof.Machine

variable {s : State} {op : Instr} {x : Locals} {d : Idx}

/-! ### S0 and S1 -/

theorem descOk_iff : s.descOk d = true ↔
    (s.desc d).bus.toNat < s.cfg.buses.length ∧ (s.desc d).slave.toNat ≤ 127 ∧ (s.desc d).isize.toNat ≤ 3 ∧
    (s.desc d).iaddr.toNat < 2 ^ (8 * (s.desc d).isize.toNat) := by
  simp [State.descOk, and_assoc]

theorem submitS0_of_descOk (h : s.descOk d = true) (op : Instr) : submitS0 op d s = s.goto op .s1 (Locals.init d) := if_pos h

theorem submitS0_of_not_descOk (h : ¬ s.descOk d = true) (op : Instr) : submitS0 op d s = s.refuse .badDescField := if_neg h

theorem dmaActiveFor_iff : s.dmaActiveFor d = true ↔ ∃ y ∈ s.chans, y.active = true ∧ y.desc = d := by
  simp [State.dmaActiveFor]

theorem submitS1_eq (cb : Callback) (args : Word) (op : Instr) (x : Locals) (s : State) : submitS1 cb args op x s = { s with
    fg := .busy op .s2 x
    descs := s.descs.modify x.d.toNat (fun e => { e with callback := cb, cbArgs := args })
    hz := { s.hz with cbReplaced := s.hz.cbReplaced || s.dmaActiveFor x.d } } := rfl

/-- S1 keeps the descriptor fields that do not read the callback or its argument (41_dispatch.md R142). -/
theorem desc_submitS1 {β : Type} (cb : Callback) (args : Word) (op : Instr) (x : Locals) (s : State) (d : Idx) (g : Desc → β)
    (h : ∀ e, g { e with callback := cb, cbArgs := args } = g e) : g ((submitS1 cb args op x s).desc d) = g (s.desc d) :=
  desc_modifyDesc_field s x.d d g h

/-! ### S2 -/

/-- The try-lock of a held lock changes nothing (20_memory.md R81). -/
theorem takeLock_of_held (h : (s.desc d).lock = true) : s.takeLock d = s := by
  have hsame : s.descs.modify d.toNat (fun e => { e with lock := true }) = s.descs := by
    refine modify_eq_self fun e he => ?_
    rw [← h, desc_of_getElem? he]
  rw [State.takeLock, State.modifyDesc, hsame]

theorem submitS2_of_held (h : (s.desc x.d).lock = true) (op : Instr) : submitS2 op x s = s.finish .submit (some 1) := by
  rw [submitS2, if_pos h, takeLock_of_held h]
  rfl

theorem submitS2_of_free (h : (s.desc x.d).lock = false) (op : Instr) : submitS2 op x s = (s.takeLock x.d).goto op .s3 x :=
  if_neg (Bool.eq_false_iff.1 h)

/-! ### S3 -/

/-- No buffer is active just when the call supplies both or neither (41_dispatch.md R147, R148). -/
theorem activeBuffer_eq_none_iff {rx tx : Option Buffer} : activeBuffer rx tx = none ↔ rx.isSome = tx.isSome := by
  cases rx <;> cases tx <;> simp [activeBuffer]

theorem submitS3_of_dma {rx tx : Option Buffer} (h : rx.isSome = tx.isSome) (hst : (s.desc x.d).strategy = .dma) (op : Instr) :
    submitS3 rx tx op x s = s.engineReturn op x .duplex := by
  rw [submitS3, activeBuffer_eq_none_iff.2 h]
  exact if_pos hst

theorem submitS3_of_not_dma {rx tx : Option Buffer} (h : rx.isSome = tx.isSome) (hst : (s.desc x.d).strategy ≠ .dma)
    (op : Instr) : submitS3 rx tx op x s = s.refuse .duplexUnchecked := by
  rw [submitS3, activeBuffer_eq_none_iff.2 h]
  exact if_neg hst

/-! ### S4 to S6 -/

theorem coversHolding_iff {cfg : Config} {buf len : Nat} : coversHolding cfg buf len = true ↔
    ∃ b ∈ cfg.buses, (buf ≤ b.thr.toNat ∧ b.thr.toNat < buf + len) ∨ (buf ≤ b.rhr.toNat ∧ b.rhr.toNat < buf + len) := by
  simp [coversHolding]

theorem bufferRefusal_of_range {cfg : Config} {buf len : Word} (h0 : len ≠ 0)
    (h : 2 ^ 32 < buf.toNat + len.toNat ∨ coversHolding cfg buf.toNat len.toNat = true) :
    bufferRefusal cfg buf len = some .bufferRange := by
  rw [bufferRefusal, if_neg h0]
  split
  · rfl
  · rename_i hlt
    exact if_pos (h.resolve_left hlt)

theorem bufferRefusal_of_admitted {cfg : Config} {buf len : Word} (h0 : len ≠ 0) (h1 : buf.toNat + len.toNat ≤ 2 ^ 32)
    (h2 : ¬ coversHolding cfg buf.toNat len.toNat = true) : bufferRefusal cfg buf len = none := by
  rw [bufferRefusal, if_neg h0, if_neg h1.not_gt, if_neg h2]

theorem submitS4_of_refusal {r : Refusal} (h : bufferRefusal s.cfg x.buf x.len = some r) (op : Instr) :
    submitS4 op x s = s.refuse r := by
  rw [submitS4, h]

theorem submitS4_of_none (h : bufferRefusal s.cfg x.buf x.len = none) (op : Instr) : submitS4 op x s = s.goto op .s5 x := by
  rw [submitS4, h]

theorem submitS5_of_some {e : Strategy} (h : effective s.cfg (s.desc x.d).strategy (s.desc x.d).bus x.len = some e) (op : Instr) :
    submitS5 op x s = s.goto op .s6 { x with eff := e } := by
  rw [submitS5, State.busOfDesc, h]

theorem submitS5_of_none (h : effective s.cfg (s.desc x.d).strategy (s.desc x.d).bus x.len = none) (op : Instr) :
    submitS5 op x s = s.refuse .noFifo := by
  rw [submitS5, State.busOfDesc, h]

/-! ### S9 -/

theorem submitS9_of_success (h : x.st = .success) : submitS9 x s = s.finish .submit (some 0) := by
  rw [submitS9, if_pos h, h]
  rfl

theorem submitS9_of_error (h : x.st ≠ .success) : submitS9 x s = (s.unlock x.d).finish .submit (some x.st.code) := by
  rw [submitS9, if_neg h]

/-! ### The runs that end in the selector -/

section
variable {rx tx : Option Buffer} {cb : Callback} {args : Word}

/-- The state S1 of SUBMIT `d` leaves, when SUBMIT was issued in `s`. -/
def State.callbackRecorded (s : State) (op : Instr) (d : Idx) (cb : Callback) (args : Word) : State :=
  submitS1 cb args op (Locals.init d) (s.goto op .s1 (Locals.init d))

theorem runOp_submit_s2 (hf : s.fg = .idle) (hd : s.descOk d = true) (n : Nat) :
    runOp (.submit d rx tx cb args) (n + 2) s =
      runOp (.submit d rx tx cb args) n (s.callbackRecorded (.submit d rx tx cb args) d cb args) := by
  rw [runOp_succ (exec_submit_idle hf d rx tx cb args), submitS0_of_descOk hd,
    runOp_succ (exec_submit_busy (l := .s1) (x := Locals.init d) rfl nofun nofun)]
  rfl

theorem lock_callbackRecorded (s : State) (op : Instr) (d : Idx) (cb : Callback) (args : Word) :
    ((s.callbackRecorded op d cb args).desc d).lock = (s.desc d).lock :=
  desc_submitS1 cb args op _ (s.goto op .s1 _) d Desc.lock fun _ => rfl

/-- A SUBMIT of a held descriptor returns at its third micro-step (41_dispatch.md R143). -/
theorem runOp_submit_held (hf : s.fg = .idle) (hd : s.descOk d = true) (hl : (s.desc d).lock = true) :
    runOp (.submit d rx tx cb args) 3 s =
      .next ((s.callbackRecorded (.submit d rx tx cb args) d cb args).finish .submit (some 1)) := by
  have h2 := submitS2_of_held (x := Locals.init d) ((lock_callbackRecorded s (.submit d rx tx cb args) d cb args).trans hl)
    (.submit d rx tx cb args)
  rw [runOp_submit_s2 hf hd, runOp_succ (exec_submit_busy (l := .s2) (x := Locals.init d) rfl nofun nofun), submitMicro, h2,
    runOp_zero]

/-- A SUBMIT of a free DMA descriptor with both buffers or neither returns at its fifth micro-step (41_dispatch.md R147). -/
theorem runOp_submit_duplex (hf : s.fg = .idle) (hd : s.descOk d = true) (hl : (s.desc d).lock = false)
    (hst : (s.desc d).strategy = .dma) (hb : rx.isSome = tx.isSome) :
    runOp (.submit d rx tx cb args) 5 s =
      .next ((((s.callbackRecorded (.submit d rx tx cb args) d cb args).takeLock d).unlock d).finish .submit (some 4)) := by
  let u := (s.callbackRecorded (.submit d rx tx cb args) d cb args).takeLock (Locals.init d).d
  have h2 := submitS2_of_free (x := Locals.init d) ((lock_callbackRecorded s (.submit d rx tx cb args) d cb args).trans hl)
    (.submit d rx tx cb args)
  have hdma : (u.desc d).strategy = .dma :=
    (desc_modifyDesc_field _ d d (f := fun e => { e with lock := true }) Desc.strategy fun _ => rfl).trans <|
      (desc_submitS1 cb args _ _ (s.goto _ .s1 _) d Desc.strategy fun _ => rfl).trans hst
  have h3 := submitS3_of_dma (x := Locals.init d) (s := u.goto (.submit d rx tx cb args) .s3 (Locals.init d)) hb hdma
    (.submit d rx tx cb args)
  rw [runOp_submit_s2 hf hd, runOp_succ (exec_submit_busy (l := .s2) (x := Locals.init d) rfl nofun nofun), submitMicro, h2,
    runOp_succ (exec_submit_busy (l := .s3) (x := Locals.init d) rfl nofun nofun), submitMicro, h3,
    runOp_succ (exec_submit_busy (l := .s9) (x := { Locals.init d with st := .duplex }) rfl nofun nofun)]
  rfl

end

end Sys2Proof.Machine
end

section
open Sys2Proof Sys2Proof.Machine

/-- Settles O15: the check is a conjunction of the four ranges, and S0 splits on it. -/
theorem submitChecksDescriptor : Obligations.SubmitChecksDescriptor := fun _ d rx tx cb args hf =>
  ⟨descOk_iff,
    fun hok => (exec_submit_idle hf d rx tx cb args).trans (congrArg _ (submitS0_of_descOk (descOk_iff.2 hok) _)),
    fun hok => (exec_submit_idle hf d rx tx cb args).trans (congrArg _ (submitS0_of_not_descOk (mt descOk_iff.1 hok) _))⟩

/-- Settles O16: S1 writes the callback with no look at the lock, and the LOCK return of S2 writes no descriptor. -/
theorem submitRecordsCallback : Obligations.SubmitRecordsCallback := by
  rintro s _ rx tx cb args x rfl op hf
  refine ⟨submitS1 cb args op x s, exec_submit_busy hf nofun nofun, rfl, ?_, fun hl => ?_⟩
  · rw [submitS1_eq, Bool.or_eq_true, dmaActiveFor_iff]
  · have hheld : ((submitS1 cb args op x s).desc x.d).lock = true :=
      (desc_submitS1 cb args op x s x.d Desc.lock fun _ => rfl).trans hl
    have hrec : (submitS1 cb args op x s).desc x.d = { s.desc x.d with callback := cb, cbArgs := args } :=
      desc_modifyDesc_same _ (lt_of_lock hl)
    refine ⟨(submitS1 cb args op x s).finish .submit (some 1),
      (exec_submit_busy (l := .s2) (x := x) rfl nofun nofun).trans (congrArg _ (submitS2_of_held hheld op)), rfl, ?_, ?_⟩
    · exact congrArg Desc.callback hrec
    · exact congrArg Desc.cbArgs hrec

/-- Settles O17: S2 splits on the lock, which S1 leaves as it is. -/
theorem submitTryLock : Obligations.SubmitTryLock := by
  intro s d rx tx cb args op
  refine ⟨fun x hx hf hfree => ?_, fun hf hd hheld => ?_⟩
  · subst hx
    exact (exec_submit_busy hf nofun nofun).trans (congrArg _ (submitS2_of_free hfree op))
  · rw [runOp_submit_held hf hd hheld, hf]
    rfl

/-- Settles O18: S2 takes the free lock, S3 returns DUPLEX to S9, and S9 frees the lock again. -/
theorem submitDuplex : Obligations.SubmitDuplex := by
  intro s d rx tx cb args op hf hd hfree hst hb
  have hdescs : (((s.callbackRecorded op d cb args).takeLock d).unlock d).descs =
      s.descs.modify d.toNat (fun e => { e with callback := cb, cbArgs := args }) := by
    simp only [State.unlock, State.takeLock, modifyDesc_descs, State.callbackRecorded, submitS1_eq, goto_descs, modify_modify,
      Locals.init]
    refine modify_congr fun e he => ?_
    rw [← hfree, desc_of_getElem? he]
    rfl
  rw [runOp_submit_duplex hf hd hfree hst hb, hf, ← hdescs]
  rfl

/-- Settles O19: S3 takes the one buffer there is, and splits on the strategy where there is not exactly one. -/
theorem submitActiveBuffer : Obligations.SubmitActiveBuffer := by
  rintro s _ cb args x r w rfl
  refine ⟨fun hf => exec_submit_busy hf nofun nofun, fun hf => exec_submit_busy hf nofun nofun, fun rx tx hb hst hf => ?_⟩
  exact (exec_submit_busy hf nofun nofun).trans (congrArg _ (submitS3_of_not_dma hb hst _))

/-- Settles O20: S4 goes by the refusal of the buffer check. -/
theorem submitBufferCheck : Obligations.SubmitBufferCheck := by
  intro s d rx tx cb args x op lo hi covers hf
  have hexec : exec op s = .next (submitS4 op x s) := exec_submit_busy hf nofun nofun
  have hcovers : coversHolding s.cfg x.buf.toNat x.len.toNat = true ↔ covers := coversHolding_iff
  rw [hexec]
  refine ⟨fun h0 => ?_, fun h0 h => ?_, fun h0 h1 h2 => ?_⟩
  · exact congrArg _ (submitS4_of_refusal (if_pos h0) op)
  · exact congrArg _ (submitS4_of_refusal (bufferRefusal_of_range h0 (h.imp_right hcovers.2)) op)
  · exact congrArg _ (submitS4_of_none (bufferRefusal_of_admitted h0 h1 (mt hcovers.1 h2)) op)

/-- Settles O21: S5 goes by the row of the configured strategy, and S6 by the table of the engines. -/
theorem submitStrategyAndEngine : Obligations.SubmitStrategyAndEngine := by
  rintro s _ rx tx cb args x rfl op goes
  refine ⟨fun hf => ?s5, fun l hf hl => ?s6⟩
  case s5 =>
    have hexec : exec op s = .next (submitS5 op x s) := exec_submit_busy hf nofun nofun
    have hgoes {st e : Strategy} (hst : (s.desc x.d).strategy = st)
        (he : effective s.cfg st (s.desc x.d).bus x.len = some e) : goes e :=
      hexec.trans (congrArg _ (submitS5_of_some (hst ▸ he) op))
    refine ⟨fun hst => hgoes hst rfl, fun hst h1 => hgoes hst (if_pos h1), fun hst h2 => hgoes hst (if_neg ?_),
      fun hst hlt => hgoes hst (if_pos hlt), fun hst hle => hgoes hst (if_neg hle.not_gt),
      fun hst hfifo => hgoes hst (if_pos hfifo), fun hst hfifo => ?_⟩
    · rintro h1
      simp [h1] at h2
    · have he : effective s.cfg (s.desc x.d).strategy (s.desc x.d).bus x.len = none := by
        rw [hst]
        exact if_neg (Bool.eq_false_iff.1 hfifo)
      exact hexec.trans (congrArg _ (submitS5_of_none he op))
  case s6 =>
    have hlabel : engineLabel x.eff x.dir = l := by
      generalize x.eff = eff at hl ⊢
      generalize x.dir = dir at hl ⊢
      cases eff <;> cases dir <;> simp at hl <;> exact hl.symm
    exact (exec_submit_busy hf nofun nofun).trans (by rw [submitMicro, submitS6, hlabel]; rfl)

/-- Settles O22: S2 leaves a held lock as it is, and S9 splits on the status. -/
theorem submitReturn : Obligations.SubmitReturn := by
  rintro s _ rx tx cb args x rfl op
  refine ⟨fun hf hheld => ?_, fun hf hst => ?_, fun code hf hcode => ?_⟩
  · exact (exec_submit_busy hf nofun nofun).trans (congrArg _ (submitS2_of_held hheld op))
  · exact (exec_submit_busy hf nofun nofun).trans (congrArg _ (submitS9_of_success hst))
  · obtain ⟨hne, rfl⟩ : x.st ≠ .success ∧ x.st.code = code := by
      generalize x.st = st at hcode ⊢
      cases st <;> simp at hcode <;> exact ⟨nofun, hcode.symm⟩
    exact (exec_submit_busy hf nofun nofun).trans (congrArg _ (submitS9_of_error hne))

end

section
/-! The tables through a micro-step of SUBMIT: the interrupt state, the hazard flags, the input and the descriptors, of which it writes its
own only, and of that the fields of its label (41_dispatch.md R140). Who writes the slots, RR and the channels, `WritesOnly` says. -/

namespace Sys2Proof.Machine

/-! ### What leaves the tables as they are -/

/-- The commands whose effect is on a bus's shadow state (30_encoding.md R100). -/
def Cmd.writesCtl : Cmd → Bool
  | .pmcEnable _ | .intEnable _ _ | .intDisable _ _ | .irqSetHandler _ | .irqLineEnable _ | .irqLineDisable _ => true
  | _ => false

theorem emit_ctl {c : Cmd} (hc : c.writesCtl = false) (s : State) : (s.emit c).ctl = s.ctl := by
  cases c with
  | pmcEnable | intEnable | intDisable | irqSetHandler | irqLineEnable | irqLineDisable => cases hc
  | cacheClean a n => simp only [State.emit, State.perform, State.cleanRange]; split <;> rfl
  | cacheInvalidate a n => simp only [State.emit, State.perform, State.invalidateRange]; split <;> rfl
  | _ => rfl

/-- What a micro-step that is none of the tables' leaves as it is. -/
@[simp] def State.tables (s : State) : List Ctl × Hazards × List Input × List Desc := (s.ctl, s.hz, s.inputs, s.descs)

theorem tables_emit {c : Cmd} (hc : c.writesCtl = false) (s : State) : (s.emit c).tables = s.tables := by
  simp [emit_ctl hc]

/-- A command at the end of a micro-step. -/
theorem tables_goto_emit {c : Cmd} (hc : c.writesCtl = false) (s : State) (op : Instr) (l : Label) (x : Locals) :
    ((s.emit c).goto op l x).tables = s.tables := tables_emit hc s

theorem tables_cpuRead (s : State) (a : Word) : (s.cpuRead a).tables = s.tables := by simp

theorem tables_cpuWrite (s : State) (a : Word) (v : Byte) : (s.cpuWrite a v).tables = s.tables := by simp

theorem tables_fifoReads (n : Nat) (a : Word) (s : State) : (fifoReads n a s).tables = s.tables := by
  induction n generalizing a s with
  | zero => rfl
  | succ n ih => exact (ih _ _).trans (tables_cpuRead s a)

theorem tables_fifoWrites (vs : List Byte) (a : Word) (s : State) : (fifoWrites vs a s).tables = s.tables := by
  induction vs generalizing a s with
  | nil => rfl
  | cons v vs ih => exact (ih _ _).trans (tables_cpuWrite s a v)

theorem tables_fifoReplaces (n : Nat) (a : Word) (s : State) : (fifoReplaces n a s).tables = s.tables := by
  induction n generalizing a s with
  | zero => rfl
  | succ n ih =>
    refine (ih _ _).trans ?_
    split <;> simp

theorem tables_fifoStores (ok : Bool) (n : Nat) (a : Word) (s : State) : (fifoStores ok n a s).tables = s.tables := by
  unfold fifoStores
  split
  · rw [tables_fifoWrites, fifoDraws_state]
    rfl
  · exact tables_fifoReplaces n a s

section Quiet
variable (op : Instr) (x : Locals) (s : State)

theorem tables_transferComplete (ready : Label) : (transferComplete ready op x s).tables = s.tables := by
  unfold transferComplete
  split <;> rfl

theorem tables_dmaM1 (next : Label) : (dmaM1 next op x s).tables = s.tables := by
  have hasked : (s.consume.emit (.dmaAlloc x.dir s.answerChan)).tables = s.tables := tables_emit rfl _
  unfold dmaM1
  split <;> exact hasked

theorem tables_fifoF1 : (fifoF1 op x s).tables = s.tables := by
  simp only [fifoF1]
  split
  · exact (tables_goto_emit rfl _ _ _ _).trans (tables_fifoReads x.len.toNat x.buf s)
  · exact (tables_fifoStores s.answerBit x.len.toNat x.buf _).trans (tables_emit rfl s.consume)

end Quiet

/-! ### The own descriptor -/

/-- What a micro-step at a label keeps of its own descriptor. -/
structure Label.KeepsOf (l : Label) (e e' : Desc) : Prop where
  host : e'.bus = e.bus ∧ e'.freq = e.freq ∧ e'.strategy = e.strategy
  target : e'.slave = e.slave ∧ e'.iaddr = e.iaddr ∧ e'.isize = e.isize
  timeout : l ≠ .c1 → e'.timeout = e.timeout
  callback : l ≠ .s1 → e'.callback = e.callback ∧ e'.cbArgs = e.cbArgs
  region : l ∉ [Label.mw2, .mr2, .mr6] → e'.regionAddr = e.regionAddr ∧ e'.regionLen = e.regionLen
  lock : l ∉ [Label.s2, .s9, .pw11, .pr10, .f4] → e'.lock = e.lock

theorem Label.KeepsOf.refl (l : Label) (e : Desc) : l.KeepsOf e e := by
  constructor <;> simp

theorem Label.keepsOf_lock {l : Label} (hl : l ∈ [Label.s2, .s9, .pw11, .pr10, .f4]) (b : Bool) (e : Desc) :
    l.KeepsOf e { e with lock := b } := by
  constructor <;> simp [hl]

theorem Label.keepsOf_region {l : Label} (hl : l ∈ [Label.mw2, .mr2, .mr6]) (a n : Word) (e : Desc) :
    l.KeepsOf e { e with regionAddr := a, regionLen := n } := by
  constructor <;> simp [hl]

theorem Label.keepsOf_withTimeout (dt : Word) (e : Desc) : Label.c1.KeepsOf e (e.withTimeout dt) := by
  constructor <;> simp [Desc.withTimeout_keeps]

/-- A callback's release and the unlock after it are one unlock (40_config.md R127, 42_polling.md R168). -/
theorem descs_unlock_invokeCallback (s : State) (cb : Callback) (d : Idx) (args : Word) :
    ((s.invokeCallback cb d args).unlock d).descs = (s.unlock d).descs := by
  have twice (c : Cmd) : (((s.emit c).unlock d).unlock d).descs = (s.unlock d).descs := by
    simp [State.unlock, modify_modify, Function.comp_def]
  have once (c : Cmd) : ((s.emit c).unlock d).descs = (s.unlock d).descs := by
    simp [State.unlock]
  unfold State.invokeCallback
  split
  · rfl
  · exact twice _
  · split
    · exact twice _
    · exact once _

/-! ### One micro-step -/

/-- What a micro-step at a label writes of the interrupt state, the hazard flags, the input and the descriptors. -/
structure Label.Frames (l : Label) (d : Idx) (s t : State) : Prop where
  ctl : l ∉ [Label.a2, .a3, .a5w, .a4r, .c2] → t.ctl = s.ctl
  hz : l ≠ .s1 → l ≠ .a1 → t.hz = s.hz
  inputs : t.inputs = s.inputs
  descs : ∃ f : Desc → Desc, (∀ e, l.KeepsOf e (f e)) ∧ t.descs = s.descs.modify d.toNat f

section Frames
variable {l : Label} {d : Idx} {s t : State}

theorem Label.Frames.congr {u : State} (h : l.Frames d s u) (ht : t.tables = u.tables) : l.Frames d s t := by
  simp only [State.tables, Prod.mk.injEq] at ht
  obtain ⟨hctl, hhz, hin, hd⟩ := ht
  obtain ⟨hctl', hhz', hin', hd'⟩ := h
  exact ⟨fun hl => hctl.trans (hctl' hl), fun h1 h2 => hhz.trans (hhz' h1 h2), hin.trans hin', hd ▸ hd'⟩

theorem frames_of_ctl (hl : l ∈ [Label.a2, .a3, .a5w, .a4r, .c2]) (hhz : t.hz = s.hz) (hin : t.inputs = s.inputs)
    (hd : t.descs = s.descs) : l.Frames d s t :=
  ⟨fun h => absurd hl h, fun _ _ => hhz, hin, id, .refl l, hd.trans (List.modify_id _ _).symm⟩

theorem frames_of_tables (h : t.tables = s.tables) : l.Frames d s t :=
  .congr ⟨fun _ => rfl, fun _ _ => rfl, rfl, id, .refl l, (List.modify_id _ _).symm⟩ h

/-- A write of the own descriptor that keeps what the label keeps. -/
theorem frames_of_modifyDesc {u : State} {f : Desc → Desc} (hu : u.tables = s.tables) (hf : ∀ e, l.KeepsOf e (f e)) :
    l.Frames d s (u.modifyDesc d f) := by
  simp only [State.tables, Prod.mk.injEq] at hu
  obtain ⟨hctl, hhz, hin, hd⟩ := hu
  exact ⟨fun _ => hctl, fun _ _ => hhz, hin, f, hf, congrArg (·.modify d.toNat f) hd⟩

theorem frames_of_command {u : State} {c : Cmd} (hu : u.tables = s.tables) (hc : c.writesCtl = false) (op : Instr) (l' : Label)
    (x : Locals) : l.Frames d s ((u.emit c).goto op l' x) :=
  frames_of_tables ((tables_goto_emit hc u op l' x).trans hu)

theorem completeSync_frames (hl : l ∈ [Label.s2, .s9, .pw11, .pr10, .f4]) (op : Instr) (x : Locals) :
    l.Frames x.d s (completeSync op x s) := by
  unfold completeSync
  split
  · refine .congr (u := s.unlock x.d) (frames_of_modifyDesc rfl (Label.keepsOf_lock hl false)) ?_
    exact Prod.ext (by simp) (Prod.ext (by simp) (Prod.ext (by simp) (descs_unlock_invokeCallback _ _ _ _)))
  · exact frames_of_tables rfl

theorem asyncA1_frames (op : Instr) (x : Locals) : Label.a1.Frames x.d s (asyncA1 op x s) := by
  have key {t : State} (hctl : t.ctl = s.ctl) (hin : t.inputs = s.inputs) (hd : t.descs = s.descs) : Label.a1.Frames x.d s t :=
    ⟨fun _ => hctl, fun _ h => absurd rfl h, hin, id, .refl _, hd.trans (List.modify_id _ _).symm⟩
  unfold asyncA1 allocSlot
  cases s.cfg.slotPolicy with
  | overwrite => exact key rfl rfl rfl
  | failFast => cases s.scanSlot <;> exact key rfl rfl rfl

theorem dmaM6r_frames (op : Instr) (x : Locals) : Label.mr6.Frames x.d s (dmaM6r op x s) := by
  have hfreed : ((s.askNack (s.busOfDesc x.d)).emit (.dmaFree x.chan)).tables = s.tables := tables_emit rfl _
  unfold dmaM6r
  split
  · exact (frames_of_modifyDesc hfreed (Label.keepsOf_region (l := .mr6) (by decide) 0 0)).congr rfl
  · exact frames_of_tables rfl

theorem submitMicro_frames (op : Instr) (x : Locals) (rx tx : Option Buffer) (cb : Callback) (args : Word) (l : Label) :
    l.Frames x.d s (submitMicro rx tx cb args op x s l) := by
  cases l with
  | s1 =>
    refine ⟨fun _ => rfl, fun h => absurd rfl h, rfl, fun e => { e with callback := cb, cbArgs := args }, fun e => ?_, rfl⟩
    constructor <;> simp
  | s2 =>
    have ht : Label.s2.Frames x.d s (s.takeLock x.d) := frames_of_modifyDesc rfl (Label.keepsOf_lock (by decide) true)
    simp only [submitMicro, submitS2]
    split <;> exact ht.congr rfl
  | s9 =>
    simp only [submitMicro, submitS9]
    split
    · exact frames_of_tables rfl
    · exact (frames_of_modifyDesc rfl (Label.keepsOf_lock (by decide) false)).congr rfl
  | c1 =>
    rw [submitMicro, configC1_eq]
    exact (frames_of_modifyDesc rfl (Label.keepsOf_withTimeout s.cfg.defaultTimeout)).congr rfl
  | mw2 | mr2 => exact (frames_of_modifyDesc rfl (Label.keepsOf_region (by decide) x.buf x.len)).congr rfl
  | mr6 => exact dmaM6r_frames op x
  | pw11 | pr10 | f4 => exact completeSync_frames (by decide) op x
  | a1 => exact asyncA1_frames op x
  | a2 | a3 | a5w | a4r | c2 => exact frames_of_ctl (by decide) rfl rfl rfl
  | mw1 | mr1 => exact frames_of_tables (tables_dmaM1 op x s _)
  | f1 => exact frames_of_tables (tables_fifoF1 op x s)
  | pw10 | pr9 | f3 => exact frames_of_tables (tables_transferComplete op x s _)
  | c4 => exact frames_of_tables (by rw [submitMicro, configC4_eq]; rfl)
  | c5 | w1 => exact frames_of_tables rfl
  | s3 =>
    refine frames_of_tables ?_
    simp only [submitMicro, submitS3]
    split
    · rfl
    · split <;> rfl
  | s4 | s5 | pw2 | pw3 | pw6 | pw7 | pw9 | pr3 | pr5 | pr7 | f2 =>
    refine frames_of_tables ?_
    simp only [submitMicro, submitS4, submitS5, pollW2, pollW3, pollW6, pollW7, pollW9, pollR3, pollR5, pollR7, fifoF2]
    split <;> rfl
  | pr8 =>
    refine frames_of_tables ?_
    simp only [submitMicro, pollR8]
    split <;> simp
  | pr4 => exact frames_of_tables (by simp [submitMicro, pollR4])
  | pw1 | pw8 | a4w => exact frames_of_command (tables_cpuRead s _) rfl _ _ _
  | c3 | pr1 | pr6 | a5r | mw3 | mw4 | mw5 | mw6 | mr3 | mr4 | mr5 | mr7 => exact frames_of_command rfl rfl _ _ _
  | s6 | pw4 | pw5 | pr2 | a6 | mw7 | mr8 => exact frames_of_tables rfl

/-- A micro-step writes no descriptor but its own (41_dispatch.md R140). -/
theorem Label.Frames.desc_ne {d' : Idx} (h : l.Frames d s t) (hd : d' ≠ d) : t.desc d' = s.desc d' := by
  obtain ⟨f, -, hdescs⟩ := h.descs
  exact (desc_congr (s := s.modifyDesc d f) hdescs d').trans (desc_modifyDesc_ne f hd)

theorem Label.Frames.desc_own (h : l.Frames d s t) : l.KeepsOf (s.desc d) (t.desc d) := by
  obtain ⟨f, hf, hdescs⟩ := h.descs
  rw [desc_congr (s := s.modifyDesc d f) hdescs d]
  by_cases hlt : d.toNat < s.descs.length
  · rw [desc_modifyDesc_same f hlt]
    exact hf _
  · have hout : (s.modifyDesc d f).desc d = s.desc d := by simp [State.desc, List.getD_eq_getElem?_getD, hlt]
    rw [hout]
    exact .refl l _

end Frames

/-- The micro-step a SUBMIT in progress has taken. -/
theorem eq_submitMicro_of_exec {s t : State} {d : Idx} {rx tx : Option Buffer} {cb : Callback} {args : Word} {l : Label}
    {x : Locals} (hf : s.fg = .busy (.submit d rx tx cb args) l x) (h : exec (.submit d rx tx cb args) s = .next t) :
    t = submitMicro rx tx cb args (.submit d rx tx cb args) x s l := by
  obtain ⟨hidle, -⟩ | ⟨l', x', hf', -, -, ht⟩ := exec_submit_cases h
  · rw [hf] at hidle
    cases hidle
  · obtain ⟨-, rfl, rfl⟩ := Fg.busy.inj (hf.symm.trans hf')
    exact ht

end Sys2Proof.Machine
end

section
open Sys2Proof Sys2Proof.Machine

/-- Settles O53: each label's parts and frame say what its micro-step writes. -/
theorem submitTableFrame : Obligations.SubmitTableFrame := by
  rintro s t _ rx tx cb args x l rfl op hf h
  obtain rfl := eq_submitMicro_of_exec hf h
  have hw : WritesOnly (fun w => w = .fg ∨ l.parts x w) s (submitMicro rx tx cb args op x s l) :=
    submitMicro_writesOnly .refl (.inl rfl) op x rx tx cb args l fun _ => .inr
  have hframe := submitMicro_frames (s := s) op x rx tx cb args l
  obtain ⟨hhost, htarget, htimeout, hcallback, hregion, hlock⟩ := hframe.desc_own
  refine ⟨fun hl => ⟨hw.slots_eq ?_, hw.rr_eq ?_⟩, fun hl => hw.chans_eq ?_, hframe.ctl, hframe.hz, hw.cfg_eq, hframe.inputs,
    fun d' => hframe.desc_ne, hhost.1, hhost.2.1, hhost.2.2, htarget.1, htarget.2.1, htarget.2.2, htimeout, hcallback, hregion,
    hlock⟩
  · cases l <;> simp [Label.parts] at hl ⊢
  · cases l <;> simp [Label.parts] at hl ⊢
  · cases l <;> simp [Label.parts] at hl ⊢

end

section
/-! Memory through a micro-step of SUBMIT: which access of memory each label makes, and what each access leaves at an address it does not
store at (42_polling.md R164, R170; 44_dma.md R237; 45_fifo.md R261). -/

namespace Sys2Proof.Machine

/-! ### The accesses, by label -/

/-- What a micro-step of SUBMIT at a label does to memory and cache: nothing, reads of the CPU, the store of a received byte at PR4 or
PR8, the stores of a FIFO_READ at F1, or the clean of the DMA set-up. -/
inductive SubmitAccess (x : Locals) (s : State) : Label → State → Prop
  | quiet {l : Label} {t : State} (h : t.memView = s.memView) : SubmitAccess x s l t
  | read {l : Label} {t : State} (n : Nat) (b : Word) (h : t.memView = (fifoReads n b s).memView) : SubmitAccess x s l t
  | byte {t u : State} (v : Byte) (hu : u.memView = s.memView) (h : t.memView = (u.cpuWrite (x.buf + x.i) v).memView) :
    SubmitAccess x s .pr4 t
  | finalByte {t u : State} (b : Word) (v : Byte) (hb : b = x.buf + x.len - 1 ∨ x.aborted = true ∧ b = x.buf + x.i)
      (hu : u.memView = s.memView) (h : t.memView = (u.cpuWrite b v).memView) : SubmitAccess x s .pr8 t
  | stream {t u : State} (ok : Bool) (hdir : x.dir = .read) (hu : u.memView = s.memView)
      (h : t.memView = (fifoStores ok x.len.toNat x.buf u).memView) : SubmitAccess x s .f1 t
  | clean {l : Label} {t u : State} (hl : l ∈ [Label.mw4, .mr4]) (hu : u.memView = s.memView)
      (h : t.memView = (u.cleanRange (s.desc x.d).regionAddr (s.desc x.d).regionLen).memView) : SubmitAccess x s l t

theorem pollR8_access (op : Instr) (x : Locals) (s : State) : SubmitAccess x s .pr8 (pollR8 op x s) := by
  have hasked := memView_askByte s (s.busOfDesc x.d)
  unfold pollR8
  split
  · rename_i haborted
    refine .finalByte _ s.answerByte ?_ ((memView_choose _).trans hasked) (memView_goto _ _ _ _)
    split
    · exact .inl rfl
    · exact .inr ⟨haborted, rfl⟩
  · exact .finalByte _ s.answerByte (.inl rfl) hasked (memView_goto _ _ _ _)

theorem fifoF1_access (op : Instr) (x : Locals) (s : State) : SubmitAccess x s .f1 (fifoF1 op x s) := by
  unfold fifoF1
  cases hdir : x.dir with
  | write => exact .read x.len.toNat x.buf (by simp)
  | read => exact .stream _ hdir (by simp) (memView_goto _ _ _ _)

theorem dmaM4_access {l : Label} (hl : l ∈ [Label.mw4, .mr4]) (next : Label) (op : Instr) (x : Locals) (s : State) :
    SubmitAccess x s l (dmaM4 next op x s) :=
  .clean hl (memView_record s (e := .cmd _) rfl) (memView_goto _ _ _ _)

theorem submitMicro_access (op : Instr) (x : Locals) (s : State) (rx tx : Option Buffer) (cb : Callback) (args : Word)
    (l : Label) : SubmitAccess x s l (submitMicro rx tx cb args op x s l) := by
  cases l with
  | pw1 => exact .read 1 x.buf (by simp [submitMicro, pollW1, fifoReads])
  | a4w => exact .read 1 x.buf (by simp [submitMicro, asyncA4w, fifoReads])
  | pw8 => exact .read 1 (x.buf + x.i) (by simp [submitMicro, pollW8, fifoReads])
  | pr4 => exact .byte s.answerByte (memView_askByte s _) (memView_goto _ _ _ _)
  | pr8 => exact pollR8_access op x s
  | f1 => exact fifoF1_access op x s
  | mw4 => exact dmaM4_access (by decide) .mw5 op x s
  | mr4 => exact dmaM4_access (by decide) .mr5 op x s
  | pw10 | pr9 | f3 => exact .quiet (memView_transferComplete op x s _)
  | pw11 | pr10 | f4 => exact .quiet (memView_completeSync op x s)
  | a1 => exact .quiet (memView_asyncA1 op x s)
  | mw1 | mr1 => exact .quiet (memView_dmaM1 op x s _)
  | c1 => exact .quiet (memView_configC1 op x s)
  | c4 => exact .quiet (memView_configC4 op x s _)
  | s2 | s4 | s5 | s9 | pw2 | pw3 | pw6 | pw7 | pw9 | pr3 | pr5 | pr7 | mr6 | f2 =>
    refine .quiet ?_
    simp only [submitMicro, submitS2, submitS4, submitS5, submitS9, pollW2, pollW3, pollW6, pollW7, pollW9, pollR3, pollR5,
      pollR7, dmaM6r, fifoF2]
    split <;> simp
  | s3 =>
    refine .quiet ?_
    simp only [submitMicro, submitS3]
    split
    · simp
    · split <;> simp
  | c2 | c3 | pr1 | pr6 | a2 | a3 | a5w | a4r | a5r | mw3 | mw5 | mw6 | mr3 | mr5 | mr7 =>
    exact .quiet ((memView_goto _ _ _ _).trans (memView_emit s nofun nofun))
  | c5 | w1 | s1 | s6 | pw4 | pw5 | pr2 | a6 | mw2 | mr2 | mw7 | mr8 => exact .quiet rfl

/-! ### What an access leaves at another address -/

/-- The byte at an address, as the CPU sees it and in memory, is unchanged, and the canonical forms are kept. -/
structure KeepsByte (a : Word) (s t : State) : Prop where
  cfg : t.cfg = s.cfg
  memOk : t.memOk
  cpu : t.cpuByte a = s.cpuByte a
  mem : Memory.read t.mem a.toNat = Memory.read s.mem a.toNat

namespace KeepsByte

variable {a b : Word} {s t u : State}

theorem trans (h : KeepsByte a s t) (h' : KeepsByte a t u) : KeepsByte a s u :=
  ⟨h'.cfg.trans h.cfg, h'.memOk, h'.cpu.trans h.cpu, h'.mem.trans h.mem⟩

theorem of_view (hs : s.memOk) (h : t.memView = s.memView) : KeepsByte a s t := by
  obtain ⟨hcfg, hmem, hcache, -⟩ := eq_of_memView h
  exact ⟨hcfg, memOk_of_eq hs hcfg hmem hcache, cpuByte_congr hcfg hcache hmem a, by rw [hmem]⟩

/-- After an access, what else changes is none of memory or cache. -/
theorem congr (h : KeepsByte a s u) (ht : t.memView = u.memView) : KeepsByte a s t := h.trans (of_view h.memOk ht)

theorem cpuRead (h0 : 0 < s.cfg.cacheLine) (hs : s.memOk) (b : Word) : KeepsByte a s (s.cpuRead b) :=
  ⟨cpuRead_cfg s b, memOk_cpuRead b hs, cpuByte_cpuRead h0 b a, by rw [cpuRead_mem]⟩

theorem cpuWrite (h0 : 0 < s.cfg.cacheLine) (hs : s.memOk) (hne : a ≠ b) (v : Byte) : KeepsByte a s (s.cpuWrite b v) := by
  refine ⟨cpuWrite_cfg s b v, memOk_cpuWrite b v hs, by rw [cpuByte_cpuWrite h0 hs, if_neg hne], ?_⟩
  have hstore := read_store_ne (s := s.allocate b) v fun h => hne (BitVec.eq_of_toNat_eq h)
  exact hstore.trans (by rw [allocate_mem])

theorem fifoReads (n : Nat) (b : Word) (h0 : 0 < s.cfg.cacheLine) (hs : s.memOk) : KeepsByte a s (fifoReads n b s) := by
  induction n generalizing b s with
  | zero => exact of_view hs rfl
  | succ n ih =>
    have hread := cpuRead (a := a) h0 hs b
    exact hread.trans (ih _ (hread.cfg ▸ h0) hread.memOk)

theorem of_cpuWrite {v : Byte} (h0 : 0 < s.cfg.cacheLine) (hs : s.memOk) (hu : u.memView = s.memView) (hne : a ≠ b)
    (h : t.memView = (u.cpuWrite b v).memView) : KeepsByte a s t := by
  have hku : KeepsByte a s u := of_view hs hu
  exact (hku.trans (cpuWrite (hku.cfg ▸ h0) hku.memOk hne v)).congr h

/-- The addresses after the first of a buffer are those of the buffer one further. -/
theorem ne_tail {n : Nat} (h : ∀ k, k < n + 1 → a ≠ b + BitVec.ofNat 32 k) :
    a ≠ b ∧ ∀ k, k < n → a ≠ b + 1 + BitVec.ofNat 32 k := by
  refine ⟨by simpa using h 0 n.succ_pos, fun k hk => ?_⟩
  have hnext : b + 1 + BitVec.ofNat 32 k = b + BitVec.ofNat 32 (k + 1) := by
    rw [BitVec.add_assoc, BitVec.ofNat_add, BitVec.add_comm 1]
    rfl
  exact hnext ▸ h (k + 1) (by omega)

theorem fifoWrites (vs : List Byte) (b : Word) (h0 : 0 < s.cfg.cacheLine) (hs : s.memOk)
    (hne : ∀ k, k < vs.length → a ≠ b + BitVec.ofNat 32 k) : KeepsByte a s (fifoWrites vs b s) := by
  induction vs generalizing b s with
  | nil => exact of_view hs rfl
  | cons v vs ih =>
    obtain ⟨hfirst, hrest⟩ := ne_tail hne
    have hwrite := cpuWrite h0 hs hfirst v
    exact hwrite.trans (ih _ (hwrite.cfg ▸ h0) hwrite.memOk hrest)

theorem fifoReplaces (n : Nat) (b : Word) (h0 : 0 < s.cfg.cacheLine) (hs : s.memOk)
    (hne : ∀ k, k < n → a ≠ b + BitVec.ofNat 32 k) : KeepsByte a s (fifoReplaces n b s) := by
  induction n generalizing b s with
  | zero => exact of_view hs rfl
  | succ n ih =>
    obtain ⟨hfirst, hrest⟩ := ne_tail hne
    have hchosen : KeepsByte a s s.choose := of_view hs (memView_choose s)
    have hdrawn : KeepsByte a s s.choose.drawByte := hchosen.congr (memView_drawByte _)
    have hbyte : KeepsByte a s (if s.answerBit then s.choose.drawByte.cpuWrite b s.choose.answerByte else s.choose) := by
      split
      · exact hdrawn.trans (cpuWrite (hdrawn.cfg ▸ h0) hdrawn.memOk hfirst _)
      · exact hchosen
    exact hbyte.trans (ih _ (hbyte.cfg ▸ h0) hbyte.memOk hrest)

theorem fifoStores (ok : Bool) (n : Nat) (b : Word) (h0 : 0 < s.cfg.cacheLine) (hs : s.memOk)
    (hne : ∀ k, k < n → a ≠ b + BitVec.ofNat 32 k) : KeepsByte a s (fifoStores ok n b s) := by
  unfold Machine.fifoStores
  split
  · have hdrawn : KeepsByte a s (fifoDraws n s).2 := by
      rw [fifoDraws_state]
      exact ⟨rfl, hs, rfl, rfl⟩
    exact hdrawn.trans (fifoWrites _ b (hdrawn.cfg ▸ h0) hdrawn.memOk (by rwa [fifoDraws_length]))
  · exact fifoReplaces n b h0 hs hne

end KeepsByte

theorem mem_fifoReads (n : Nat) (b : Word) (s : State) : (fifoReads n b s).mem = s.mem := by
  induction n generalizing b s with
  | zero => rfl
  | succ n ih => exact (ih _ _).trans (cpuRead_mem s b)

theorem mem_of_memView {s t : State} (h : t.memView = s.memView) : t.mem = s.mem := (eq_of_memView h).2.1

end Sys2Proof.Machine
end

section
open Sys2Proof Sys2Proof.Machine

/-- Settles O52: each label's access stores at its rule's addresses only, and the clean writes memory under the lines of its region. -/
theorem submitMemoryFrame : Obligations.SubmitMemoryFrame := by
  intro s t d rx tx cb args x l a op hw hs hf h h4 h8 h1 la e
  have h0 := (Config.wf_line hw).1
  have haccess : SubmitAccess x s l t := eq_submitMicro_of_exec hf h ▸ submitMicro_access op x s rx tx cb args l
  cases haccess with
  | quiet hv =>
    have hk : KeepsByte a s t := .of_view hs hv
    exact ⟨hk.cpu, fun _ => hk.mem, fun _ _ => mem_of_memView hv⟩
  | read n b hv =>
    have hk : KeepsByte a s t := (KeepsByte.fifoReads n b h0 hs).congr hv
    exact ⟨hk.cpu, fun _ => hk.mem, fun _ _ => (mem_of_memView hv).trans (mem_fifoReads n b s)⟩
  | byte v hu hv =>
    have hk : KeepsByte a s t := .of_cpuWrite h0 hs hu (h4 rfl) hv
    exact ⟨hk.cpu, fun _ => hk.mem, fun hl => absurd (by decide) hl⟩
  | finalByte b v hb hu hv =>
    obtain ⟨hlast, hnext⟩ := h8 rfl
    have hne : a ≠ b := by
      obtain rfl | ⟨haborted, rfl⟩ := hb
      · exact hlast
      · exact hnext haborted
    have hk : KeepsByte a s t := .of_cpuWrite h0 hs hu hne hv
    exact ⟨hk.cpu, fun _ => hk.mem, fun hl => absurd (by decide) hl⟩
  | stream ok hdir hu hv =>
    have hku : KeepsByte a s _ := .of_view hs hu
    have hk : KeepsByte a s t := (hku.trans (.fifoStores ok _ _ (hku.cfg ▸ h0) hku.memOk (h1 rfl hdir))).congr hv
    exact ⟨hk.cpu, fun _ => hk.mem, fun _ hwrite => nomatch hdir.symm.trans (hwrite rfl)⟩
  | clean hl hu hv =>
    have hku : KeepsByte a s _ := .of_view hs hu
    have h0u := hku.cfg ▸ h0
    obtain ⟨hcfg, hmem, hcache, -⟩ := eq_of_memView hv
    refine ⟨?_, fun hout => ?_, fun hn => absurd ?_ hn⟩
    · rw [cpuByte_congr hcfg hcache hmem, cpuByte_cleanRange h0u hku.memOk, hku.cpu]
    · have hmeets := hout.resolve_left (not_not_intro hl)
      rw [hmem, read_cleanRange_of_not_dirty h0u hku.memOk fun _ _ hm => absurd (meets_iff.1 hm) (hku.cfg ▸ hmeets), hku.mem]
    · revert hl
      simp +contextual

end

section
/-! A SUBMIT with no other agent's step between its micro-steps ends (41_dispatch.md R151; 42_polling.md R160): each label has a budget of
micro-steps after its own, every micro-step goes to a label of a smaller one or ends the run, and until then nothing is returned and no
mark is set. -/

namespace Sys2Proof.Machine

/-! ### What leaves the marks and the returns as they are -/

/-- The returns of the history, in order. -/
def State.returns (s : State) : List Event := s.hist.filter Event.isRet

/-- What a micro-step that neither stops nor returns leaves as it is. -/
def State.marks (s : State) : Option Fault × Option Refusal × List Event := (s.fault, s.refused, s.returns)

theorem marks_of_eq {s t : State} (hf : t.fault = s.fault) (hr : t.refused = s.refused) (hh : t.hist = s.hist) :
    t.marks = s.marks := by
  simp only [State.marks, State.returns, hf, hr, hh]

section Quiet
variable (s : State)

@[simp] theorem returns_record (e : Event) : (s.record e).returns = s.returns ++ if e.isRet then [e] else [] := by
  simp only [State.returns, record_hist, List.filter_append, List.filter_cons, List.filter_nil]

theorem marks_record {e : Event} (he : e.isRet = false) : (s.record e).marks = s.marks := by simp [State.marks, he]

theorem marks_emit (c : Cmd) : (s.emit c).marks = s.marks :=
  (marks_of_eq (perform_fault _ c) (perform_refused _ c) (perform_hist _ c)).trans (marks_record s rfl)

theorem marks_askNack (b : Idx) : (s.askNack b).marks = s.marks := marks_emit s.consume _
theorem marks_askByte (b : Idx) : (s.askByte b).marks = s.marks := marks_emit s.consume _
theorem marks_askTxrdy (b : Idx) (t : Word) : (s.askTxrdy b t).marks = s.marks := marks_emit s.consume _
theorem marks_askRxrdy (b : Idx) (t : Word) : (s.askRxrdy b t).marks = s.marks := marks_emit s.consume _
theorem marks_askTxcomp (b : Idx) (t : Word) : (s.askTxcomp b t).marks = s.marks := marks_emit s.consume _
theorem marks_choose : s.choose.marks = s.marks := marks_record s.consume rfl
theorem marks_drawByte : s.drawByte.marks = s.marks := marks_record s.consume rfl

theorem marks_allocate (a : Word) : (s.allocate a).marks = s.marks := by
  unfold State.allocate
  split
  · split <;> exact marks_choose s
  · rfl

theorem marks_cpuRead (a : Word) : (s.cpuRead a).marks = s.marks := (marks_record _ rfl).trans (marks_allocate s a)

theorem marks_cpuWrite (a : Word) (v : Byte) : (s.cpuWrite a v).marks = s.marks :=
  (marks_record _ rfl).trans <| (marks_of_eq (store_fault _ a v) (store_refused _ a v) (store_hist _ a v)).trans (marks_allocate s a)

theorem marks_invokeCallback (cb : Callback) (d : Idx) (args : Word) : (s.invokeCallback cb d args).marks = s.marks := by
  unfold State.invokeCallback
  split
  · rfl
  · exact marks_emit s _
  · split <;> exact marks_emit s _

theorem marks_fifoReads (n : Nat) (a : Word) : (fifoReads n a s).marks = s.marks := by
  induction n generalizing a s with
  | zero => rfl
  | succ n ih => exact (ih _ _).trans (marks_cpuRead s a)

theorem marks_fifoWrites (vs : List Byte) (a : Word) : (fifoWrites vs a s).marks = s.marks := by
  induction vs generalizing a s with
  | nil => rfl
  | cons v vs ih => exact (ih _ _).trans (marks_cpuWrite s a v)

theorem marks_fifoDraws (n : Nat) : (fifoDraws n s).2.marks = s.marks := by
  induction n generalizing s with
  | zero => rfl
  | succ n ih => exact (ih _).trans (marks_drawByte s)

theorem marks_fifoReplaces (n : Nat) (a : Word) : (fifoReplaces n a s).marks = s.marks := by
  induction n generalizing a s with
  | zero => rfl
  | succ n ih =>
    refine (ih _ _).trans ?_
    split
    · rw [marks_cpuWrite, marks_drawByte, marks_choose]
    · exact marks_choose s

theorem marks_fifoStores (ok : Bool) (n : Nat) (a : Word) : (fifoStores ok n a s).marks = s.marks := by
  unfold fifoStores
  split
  · exact (marks_fifoWrites _ _ _).trans (marks_fifoDraws s n)
  · exact marks_fifoReplaces s n a

theorem marks_of_allocSlot {k : Nat} {u : State} (h : allocSlot s = some (k, u)) : u.marks = s.marks := by
  unfold allocSlot at h
  split at h
  · cases h
    rfl
  · obtain ⟨_, -, hu⟩ := Option.map_eq_some_iff.1 h
    cases hu
    rfl

theorem marks_finish (o : Opcode) (r : Option Word) :
    (s.finish o r).marks = (s.fault, s.refused, s.returns ++ [.ret o r]) := by
  simp [State.marks, State.returns, Event.isRet]

end Quiet

/-! ### The budget of a label -/

/-- How many bytes the buffers of a call hold together. -/
def suppliedBytes (rx tx : Option Buffer) : Nat :=
  (rx.map (fun b => b.len.toNat)).getD 0 + (tx.map (fun b => b.len.toNat)).getD 0

/-- How many micro-steps may follow the one at a label, where the operation supplies `total` bytes: four for each byte the polling engine
has left (42_polling.md R162, R164), and else as many as the rule has labels. -/
def Label.budget (total : Nat) (x : Locals) : Label → Nat
  | .s1 => 4 * total + 14
  | .s2 => 4 * total + 13
  | .s3 => 4 * total + 12
  | .s4 => 4 * x.len.toNat + 11
  | .s5 => 4 * x.len.toNat + 10
  | .s6 => 4 * x.len.toNat + 9
  | .pw1 => 4 * x.len.toNat + 7
  | .pw2 => 4 * x.len.toNat + 6
  | .pw3 => 4 * x.len.toNat + 5
  | .pw4 => 4 * x.len.toNat + 4
  | .pw5 => 4 * (x.len.toNat - x.i.toNat) + 7
  | .pw6 => 4 * (x.len.toNat - x.i.toNat) + 6
  | .pw7 => 4 * (x.len.toNat - x.i.toNat) + 5
  | .pw8 => 4 * (x.len.toNat - x.i.toNat) + 4
  | .pr1 => 4 * x.len.toNat + 6
  | .pr2 => 4 * (x.len.toNat - x.i.toNat) + 5
  | .pr3 => 4 * (x.len.toNat - x.i.toNat) + 4
  | .pr4 => 4 * (x.len.toNat - x.i.toNat) + 3
  | .pr5 => 4 * (x.len.toNat - x.i.toNat) + 2
  | .pr6 | .mr1 => 8
  | .pr7 | .f1 | .mw1 | .mr2 => 7
  | .pw9 | .pr8 | .f2 | .a1 | .mw2 | .mr3 => 6
  | .pw10 | .pr9 | .f3 | .a2 | .mw3 | .mr4 => 5
  | .c1 | .a3 | .mw4 | .mr5 => 4
  | .c2 | .a4w | .a4r | .mw5 | .mr6 => 3
  | .c3 | .a5w | .a5r | .mw6 | .mr7 => 2
  | .c4 | .pw11 | .pr10 | .f4 | .a6 | .mw7 | .mr8 => 1
  | .s9 | .c5 | .w1 => 0

/-- What a label asks of the length and the loop's index; `c5` and `w1` are none of SUBMIT's. -/
def Label.admits (x : Locals) : Label → Prop
  | .s5 | .s6 | .pw1 | .pw2 | .pw3 | .pw4 | .pr1 => 0 < x.len.toNat
  | .pw5 => x.i.toNat ≤ x.len.toNat
  | .pw6 | .pw7 | .pw8 | .pr2 => x.i.toNat < x.len.toNat
  | .pr3 | .pr4 | .pr5 => x.i.toNat + 1 < x.len.toNat
  | .c5 | .w1 => False
  | _ => True

/-- The loop's index does not wrap before the length is reached. -/
theorem toNat_succ_of_lt {i len : Word} (h : i.toNat < len.toNat) : (i + 1).toNat = i.toNat + 1 := by
  have := len.isLt
  simp [BitVec.toNat_add]
  omega

/-- The engine's first label (41_dispatch.md R149). -/
theorem engineLabel_budget (total : Nat) {x : Locals} (h : 0 < x.len.toNat) (eff : Strategy) (dir : Dir) :
    (engineLabel eff dir).admits x ∧ (engineLabel eff dir).budget total x < 4 * x.len.toNat + 9 := by
  cases eff <;> cases dir <;> simp [engineLabel, Label.admits, Label.budget, h]

/-! ### One micro-step -/

/-- How a SUBMIT of `d` that was in progress in `s` ends. -/
inductive SubmitEnd (d : Idx) (s t : State) : Prop
  | returned (st : Status) (hfg : t.fg = .idle) (hres : t.result = some st.code)
      (hm : t.marks = (s.fault, s.refused, s.returns ++ [.ret .submit (some st.code)]))
      (hl : st ≠ .success → st ≠ .lock → (t.desc d).lock = false)
  | refused (r : Refusal) (hr : t.refused = some r) (hret : t.returns = s.returns)
  | faulted (dir : Dir) (hf : t.fault = some (.dmaAlloc d dir)) (hret : t.returns = s.returns)

/-- Where a micro-step with `n` micro-steps to follow leaves the run: at a label with fewer to follow, or at its end. -/
inductive SubmitStage (op : Instr) (d : Idx) (total n : Nat) (s t : State) : Prop
  | goes (l : Label) (x : Locals) (hfg : t.fg = .busy op l x) (hd : x.d = d) (hm : t.marks = s.marks) (hx : l.admits x)
      (hb : l.budget total x < n)
  | ends (h : SubmitEnd d s t)

section Stage
variable {op : Instr} {total n : Nat} {x : Locals} {s : State}

theorem refuse_stage (d : Idx) (r : Refusal) : SubmitStage op d total n s (s.refuse r) := .ends (.refused r rfl rfl)

/-- Every engine's return, and the DUPLEX of S3, go to S9 (41_dispatch.md R149, R150). -/
theorem engineReturn_stage {u : State} (hm : u.marks = s.marks) (st : Status) (hn : 0 < n) :
    SubmitStage op x.d total n s (u.engineReturn op x st) :=
  .goes .s9 _ rfl rfl hm trivial hn

theorem submitS2_stage : SubmitStage op x.d total (4 * total + 13) s (submitS2 op x s) := by
  unfold submitS2
  split
  · exact .ends (.returned .lock rfl rfl (marks_finish _ _ _) fun _ h => absurd rfl h)
  · exact .goes .s3 x rfl rfl rfl trivial (by simp [Label.budget])

theorem submitS3_stage {rx tx : Option Buffer} (htotal : total = suppliedBytes rx tx) :
    SubmitStage op x.d total (4 * total + 12) s (submitS3 rx tx op x s) := by
  unfold submitS3
  split
  · rename_i b dir hactive
    have hlen : total = b.len.toNat := by
      cases rx <;> cases tx <;> simp [activeBuffer] at hactive
      all_goals simp [htotal, suppliedBytes, hactive]
    exact .goes .s4 _ rfl rfl rfl trivial (by simp [Label.budget, hlen])
  · split
    · exact engineReturn_stage rfl _ (Nat.succ_pos _)
    · exact refuse_stage _ _

theorem submitS4_stage : SubmitStage op x.d total (4 * x.len.toNat + 11) s (submitS4 op x s) := by
  unfold submitS4
  split
  · exact refuse_stage _ _
  · rename_i hnone
    have hlen : x.len.toNat ≠ 0 := fun h => (buffered_of_bufferRefusal hnone).1 (BitVec.eq_of_toNat_eq h)
    exact .goes .s5 x rfl rfl rfl (Nat.pos_of_ne_zero hlen) (by simp [Label.budget])

theorem submitS5_stage (h : 0 < x.len.toNat) : SubmitStage op x.d total (4 * x.len.toNat + 10) s (submitS5 op x s) := by
  unfold submitS5
  split
  · exact .goes .s6 _ rfl rfl rfl h (by simp [Label.budget])
  · exact refuse_stage _ _

/-- S9 returns its status, and frees the lock where that is an error (41_dispatch.md R150). -/
theorem submitS9_stage : SubmitStage op x.d total n s (submitS9 x s) := by
  refine .ends ?_
  by_cases hst : x.st = .success
  · rw [submitS9_of_success hst]
    exact .returned .success rfl rfl (marks_finish _ _ _) fun h => absurd rfl h
  · rw [submitS9_of_error hst]
    exact .returned x.st rfl rfl (marks_finish _ _ _) fun _ _ => desc_unlock_lock s x.d

/-- The transfer-complete wait goes on to the completion or to the reconfiguration (42_polling.md R168). -/
theorem transferComplete_stage {ready : Label} (hr : ready ∈ [Label.pw11, .pr10, .f4]) :
    SubmitStage op x.d total 5 s (transferComplete ready op x s) := by
  have hready : ready.admits x ∧ ready.budget total x < 5 := by
    simp only [List.mem_cons, List.not_mem_nil, or_false] at hr
    obtain rfl | rfl | rfl := hr <;> exact ⟨trivial, by simp [Label.budget]⟩
  unfold transferComplete
  split
  · exact .goes .c1 _ rfl rfl (marks_askTxcomp s _ _) trivial (by simp [Label.budget])
  · exact .goes ready x rfl rfl (marks_askTxcomp s _ _) hready.1 hready.2

theorem completeSync_stage : SubmitStage op x.d total 1 s (completeSync op x s) := by
  unfold completeSync
  split
  · exact .goes .s9 _ rfl rfl (marks_invokeCallback s _ _ _) trivial Nat.one_pos
  · exact refuse_stage _ _

theorem asyncA1_stage : SubmitStage op x.d total 6 s (asyncA1 op x s) := by
  unfold asyncA1
  split
  · rename_i k u halloc
    have hm := marks_of_allocSlot s halloc
    exact .goes .a2 _ rfl rfl hm trivial (by simp [Label.budget])
  · exact engineReturn_stage rfl _ (Nat.succ_pos _)

/-- M1 takes a channel, or raises the fault (44_dma.md R231). -/
theorem dmaM1_stage {next : Label} (hx : ∀ c, next.admits { x with ch := some c })
    (hb : ∀ c, next.budget total { x with ch := some c } < n) : SubmitStage op x.d total n s (dmaM1 next op x s) := by
  have hasked : (s.consume.emit (.dmaAlloc x.dir s.answerChan)).marks = s.marks := marks_emit s.consume _
  unfold dmaM1
  split
  · rename_i c _
    exact .goes next _ rfl rfl hasked (hx c) (hb c)
  · exact .ends (.faulted x.dir rfl (congrArg (·.2.2) hasked))

theorem configC4_stage : SubmitStage op x.d total 1 s (configC4 .s9 op x s) := by
  unfold configC4
  split
  · exact .goes .s9 x rfl rfl (marks_emit s _) trivial Nat.one_pos
  · exact .goes .s9 x rfl rfl rfl trivial Nat.one_pos

theorem fifoF1_stage : SubmitStage op x.d total 7 s (fifoF1 op x s) := by
  unfold fifoF1
  split
  · exact .goes .f2 _ rfl rfl ((marks_emit _ _).trans (marks_fifoReads s _ _)) trivial (by simp [Label.budget])
  · exact .goes .f2 _ rfl rfl ((marks_fifoStores _ _ _ _).trans (marks_emit s.consume _)) trivial (by simp [Label.budget])

/-- The polling write's loop test, and the byte it goes on with (42_polling.md R162). -/
theorem pollW5_stage (hx : Label.pw5.admits x) : SubmitStage op x.d total (Label.pw5.budget total x) s (pollW5 op x s) := by
  unfold pollW5
  split
  · exact .goes .pw9 x rfl rfl rfl trivial (by simp [Label.budget])
  · rename_i hne
    have hlt : x.i.toNat < x.len.toNat := lt_of_le_of_ne hx fun h => hne (BitVec.eq_of_toNat_eq h)
    exact .goes .pw6 x rfl rfl rfl hlt (by simp [Label.budget])

/-- The polling read's loop test, one byte before the last (42_polling.md R164, R165). -/
theorem pollR2_stage (hx : Label.pr2.admits x) : SubmitStage op x.d total (Label.pr2.budget total x) s (pollR2 op x s) := by
  have hlt : x.i.toNat < x.len.toNat := hx
  have hlast : (x.len - 1).toNat = x.len.toNat - 1 := by
    have := x.len.isLt
    simp [BitVec.toNat_sub]
    omega
  unfold pollR2
  split
  · exact .goes .pr6 x rfl rfl rfl trivial (by simp only [Label.budget]; omega)
  · rename_i hne
    have hnext : x.i.toNat ≠ x.len.toNat - 1 := fun h => hne (BitVec.eq_of_toNat_eq (h.trans hlast.symm))
    exact .goes .pr3 x rfl rfl rfl (by simp only [Label.admits]; omega) (by simp [Label.budget])

theorem pollW8_stage (hx : Label.pw8.admits x) : SubmitStage op x.d total (Label.pw8.budget total x) s (pollW8 op x s) := by
  have hlt : x.i.toNat < x.len.toNat := hx
  have hi := toNat_succ_of_lt hlt
  exact .goes .pw5 _ rfl rfl ((marks_emit _ _).trans (marks_cpuRead s _)) (by simp only [Label.admits, hi]; omega)
    (by simp only [Label.budget, hi]; omega)

theorem pollR5_stage (hx : Label.pr5.admits x) : SubmitStage op x.d total (Label.pr5.budget total x) s (pollR5 op x s) := by
  have hlt : x.i.toNat + 1 < x.len.toNat := hx
  have hi := toNat_succ_of_lt (i := x.i) (len := x.len) (by omega)
  unfold pollR5
  split
  · exact engineReturn_stage (marks_askNack s _) _ (Nat.succ_pos _)
  · exact .goes .pr2 _ rfl rfl (marks_askNack s _) (by simp only [Label.admits, hi]; omega)
      (by simp only [Label.budget, hi]; omega)

theorem pollR8_stage : SubmitStage op x.d total 6 s (pollR8 op x s) := by
  have hasked := marks_askByte s (s.busOfDesc x.d)
  unfold pollR8
  split
  · exact .goes .pr9 x rfl rfl ((marks_cpuWrite _ _ _).trans ((marks_choose _).trans hasked)) trivial (by simp [Label.budget])
  · exact .goes .pr9 x rfl rfl ((marks_cpuWrite _ _ _).trans hasked) trivial (by simp [Label.budget])

theorem submitMicro_stage {rx tx : Option Buffer} {cb : Callback} {args : Word} {l : Label}
    (htotal : total = suppliedBytes rx tx) (hx : l.admits x) :
    SubmitStage op x.d total (l.budget total x) s (submitMicro rx tx cb args op x s l) := by
  have command {l' : Label} {n : Nat} (c : Cmd) (hx : l'.admits x) (hb : l'.budget total x < n) :
      SubmitStage op x.d total n s ((s.emit c).goto op l' x) := .goes l' x rfl rfl (marks_emit s c) hx hb
  cases l with
  | c5 | w1 => exact hx.elim
  | s1 => exact .goes .s2 x rfl rfl rfl trivial (by simp [Label.budget])
  | s2 => exact submitS2_stage
  | s3 => exact submitS3_stage htotal
  | s4 => exact submitS4_stage
  | s5 => exact submitS5_stage hx
  | s6 =>
    obtain ⟨hfirst, hb⟩ := engineLabel_budget total hx x.eff x.dir
    exact .goes _ x rfl rfl rfl hfirst hb
  | s9 => exact submitS9_stage
  | pw1 => exact .goes .pw2 x rfl rfl ((marks_emit _ _).trans (marks_cpuRead s _)) hx (by simp [Label.budget])
  | pw2 =>
    simp only [submitMicro, pollW2]
    split
    · exact command _ hx (by simp [Label.budget])
    · exact .goes .pw3 x rfl rfl rfl hx (by simp [Label.budget])
  | pw3 =>
    simp only [submitMicro, pollW3]
    split
    · exact engineReturn_stage (marks_askNack s _) _ (Nat.succ_pos _)
    · exact .goes .pw4 x rfl rfl (marks_askNack s _) hx (by simp [Label.budget])
  | pw4 =>
    have hlen : 0 < x.len.toNat := hx
    exact .goes .pw5 _ rfl rfl rfl hlen (by simp [Label.budget]; omega)
  | pw5 => exact pollW5_stage hx
  | pw6 =>
    have hlt : x.i.toNat < x.len.toNat := hx
    simp only [submitMicro, pollW6]
    split
    · exact .goes .pw9 x rfl rfl (marks_askTxrdy s _ _) trivial (by simp only [Label.budget]; omega)
    · exact .goes .pw7 x rfl rfl (marks_askTxrdy s _ _) hx (by simp [Label.budget])
  | pw7 =>
    simp only [submitMicro, pollW7]
    split
    · exact engineReturn_stage (marks_askNack s _) _ (Nat.succ_pos _)
    · exact .goes .pw8 x rfl rfl (marks_askNack s _) hx (by simp [Label.budget])
  | pw8 => exact pollW8_stage hx
  | pw9 =>
    simp only [submitMicro, pollW9]
    split
    · exact command _ trivial (by simp [Label.budget])
    · exact .goes .pw10 x rfl rfl rfl trivial (by simp [Label.budget])
  | pw10 | pr9 | f3 => exact transferComplete_stage (by decide)
  | pw11 | pr10 | f4 => exact completeSync_stage
  | pr1 =>
    have hlen : 0 < x.len.toNat := hx
    exact .goes .pr2 _ rfl rfl (marks_emit s _) hlen (by simp [Label.budget])
  | pr2 => exact pollR2_stage hx
  | pr3 =>
    have hlt : x.i.toNat + 1 < x.len.toNat := hx
    simp only [submitMicro, pollR3]
    split
    · exact .goes .pr6 _ rfl rfl (marks_askRxrdy s _ _) trivial (by simp only [Label.budget]; omega)
    · exact .goes .pr4 x rfl rfl (marks_askRxrdy s _ _) hx (by simp [Label.budget])
  | pr4 => exact .goes .pr5 x rfl rfl ((marks_cpuWrite _ _ _).trans (marks_askByte s _)) hx (by simp [Label.budget])
  | pr5 => exact pollR5_stage hx
  | pr7 =>
    simp only [submitMicro, pollR7]
    split
    · exact .goes .pr9 x rfl rfl (marks_askRxrdy s _ _) trivial (by simp [Label.budget])
    · exact .goes .pr8 x rfl rfl (marks_askRxrdy s _ _) trivial (by simp [Label.budget])
  | pr8 => exact pollR8_stage
  | a1 => exact asyncA1_stage
  | a3 =>
    simp only [submitMicro, asyncA3]
    split <;> exact command _ trivial (by simp [Label.budget])
  | a4w => exact .goes .a5w x rfl rfl ((marks_emit _ _).trans (marks_cpuRead s _)) trivial (by simp [Label.budget])
  | c1 =>
    rw [submitMicro, configC1_eq]
    exact .goes .c2 x rfl rfl rfl trivial (by simp [Label.budget])
  | c2 | c3 | pr6 | a2 | a5w | a4r | a5r | mw3 | mw4 | mw5 | mw6 | mr3 | mr4 | mr5 | mr7 =>
    exact command _ trivial (by simp [Label.budget])
  | c4 => exact configC4_stage
  | mw1 | mr1 => exact dmaM1_stage (fun _ => trivial) fun _ => by simp [Label.budget]
  | mw2 | mr2 => exact .goes _ x rfl rfl rfl trivial (by simp [Label.budget])
  | mr6 =>
    simp only [submitMicro, dmaM6r]
    split
    · exact .goes .s9 _ rfl rfl ((marks_emit _ _).trans (marks_askNack s _)) trivial (by simp [Label.budget])
    · exact .goes .mr7 x rfl rfl (marks_askNack s _) trivial (by simp [Label.budget])
  | a6 | mw7 | mr8 => exact engineReturn_stage rfl _ Nat.one_pos
  | f1 => exact fifoF1_stage
  | f2 =>
    simp only [submitMicro, fifoF2]
    split
    · exact .goes .f3 x rfl rfl rfl trivial (by simp [Label.budget])
    · exact engineReturn_stage (marks_choose s) _ (Nat.succ_pos _)

end Stage

/-! ### The run -/

/-- An end is one for every state with the same marks and returns. -/
theorem SubmitEnd.of_marks {d : Idx} {s u t : State} (h : SubmitEnd d u t) (hm : u.marks = s.marks) : SubmitEnd d s t := by
  simp only [State.marks, Prod.mk.injEq] at hm
  obtain ⟨hf, hr, hret⟩ := hm
  cases h with
  | returned st hfg hres hm hl => exact .returned st hfg hres (by rw [hm, hf, hr, hret]) hl
  | refused r h1 h2 => exact .refused r h1 (h2.trans hret)
  | faulted dir h1 h2 => exact .faulted dir h1 (h2.trans hret)

section Run
variable {d : Idx} {rx tx : Option Buffer} {cb : Callback} {args : Word} {total : Nat}

/-- A SUBMIT at a label takes its micro-step there. -/
theorem exec_submit_stage (htotal : total = suppliedBytes rx tx) {s : State} {l : Label} {x : Locals}
    (hf : s.fg = .busy (.submit d rx tx cb args) l x) (hd : x.d = d) (hx : l.admits x) :
    ∃ t, exec (.submit d rx tx cb args) s = .next t ∧
      SubmitStage (.submit d rx tx cb args) d total (l.budget total x) s t := by
  have h5 : l ≠ .c5 := by rintro rfl; exact hx
  have h1 : l ≠ .w1 := by rintro rfl; exact hx
  exact ⟨_, exec_submit_busy hf h5 h1, hd ▸ submitMicro_stage htotal hx⟩

/-- From a label on, the run ends with its own micro-step and its budget of others. -/
theorem runOp_submit_ends (htotal : total = suppliedBytes rx tx) {n : Nat} {s : State} {l : Label} {x : Locals}
    (hf : s.fg = .busy (.submit d rx tx cb args) l x) (hd : x.d = d) (hx : l.admits x) (hn : l.budget total x ≤ n) :
    ∃ m t, m ≤ n ∧ runOp (.submit d rx tx cb args) (m + 1) s = .next t ∧ SubmitEnd d s t := by
  induction n generalizing s l x with
  | zero =>
    obtain ⟨u, hexec, hstage⟩ := exec_submit_stage htotal hf hd hx
    cases hstage with
    | goes l' x' hfg hd' hm hx' hb => omega
    | ends hend => exact ⟨0, u, le_rfl, runOp_succ hexec 0, hend⟩
  | succ n ih =>
    obtain ⟨u, hexec, hstage⟩ := exec_submit_stage htotal hf hd hx
    cases hstage with
    | goes l' x' hfg hd' hm hx' hb =>
      obtain ⟨m, t, hmn, hrun, hend⟩ := ih hfg hd' hx' (by omega)
      exact ⟨m + 1, t, by omega, (runOp_succ hexec (m + 1)).trans hrun, hend.of_marks hm⟩
    | ends hend => exact ⟨0, u, Nat.zero_le _, runOp_succ hexec 0, hend⟩

/-- A SUBMIT from its issue to its end. -/
theorem runOp_submit_idle_ends {s : State} (hf : s.fg = .idle) (htotal : total = suppliedBytes rx tx) :
    ∃ m t, m ≤ 4 * total + 15 ∧ runOp (.submit d rx tx cb args) (m + 1) s = .next t ∧ SubmitEnd d s t := by
  have hexec := exec_submit_idle hf d rx tx cb args
  by_cases hd : s.descOk d = true
  · rw [submitS0_of_descOk hd] at hexec
    obtain ⟨m, t, hm, hrun, hend⟩ := runOp_submit_ends (cb := cb) (args := args) htotal
      (s := s.goto (.submit d rx tx cb args) .s1 (Locals.init d)) rfl rfl trivial le_rfl
    exact ⟨m + 1, t, Nat.succ_le_succ hm, (runOp_succ hexec (m + 1)).trans hrun, hend.of_marks rfl⟩
  · rw [submitS0_of_not_descOk hd] at hexec
    exact ⟨0, _, Nat.zero_le _, runOp_succ hexec 0, .refused .badDescField rfl rfl⟩

end Run

/-- A run only appends to the history (10_state.md R36). -/
theorem runOp_hist_grows {i : Instr} {n : Nat} {s t : State} (h : runOp i n s = .next t) : ∃ es, t.hist = s.hist ++ es := by
  induction n generalizing s with
  | zero =>
    cases h
    exact ⟨[], (List.append_nil _).symm⟩
  | succ n ih =>
    cases hexec : exec i s with
    | next u =>
      rw [runOp_succ hexec] at h
      obtain ⟨es, hu⟩ := (exec_writesOnly (P := fun _ => True) .refl (fun _ _ => trivial) hexec).hist_grows
      obtain ⟨fs, ht⟩ := ih h
      exact ⟨es ++ fs, by rw [ht, hu, List.append_assoc]⟩
    | fault f => simp [runOp, hexec] at h
    | refused r => simp [runOp, hexec] at h

/-- The returns among the events a run appended. -/
theorem returns_of_hist {s t : State} {es : List Event} (h : t.hist = s.hist ++ es) :
    t.returns = s.returns ++ es.filter Event.isRet := by
  rw [State.returns, h, List.filter_append]
  rfl

end Sys2Proof.Machine
end

section
open Sys2Proof Sys2Proof.Machine

/-- Settles O23: the budget of S1 bounds the run, and the history it appended returns once or not at all. -/
theorem submitTerminates : Obligations.SubmitTerminates := by
  intro s d rx tx cb args op len hf hfault hrefused
  obtain ⟨m, t, hm, hrun, hend⟩ := runOp_submit_idle_ends (total := len) (d := d) (rx := rx) (tx := tx) (cb := cb) (args := args) hf rfl
  obtain ⟨es, hes⟩ := runOp_hist_grows hrun
  have hreturns := returns_of_hist hes
  refine ⟨m + 1, t, es, Nat.succ_pos m, by omega, hrun, hes, ?_⟩
  cases hend with
  | returned st hfg hres hmarks hlock =>
    simp only [State.marks, Prod.mk.injEq] at hmarks
    obtain ⟨hf', hr', hret⟩ := hmarks
    exact .inl ⟨st, hfg, hf'.trans hfault, hr'.trans hrefused, hres, List.append_cancel_left (hreturns.symm.trans hret), hlock⟩
  | refused r hr hret =>
    exact .inr (.inl ⟨hr ▸ Option.some_ne_none r, List.append_right_eq_self.1 (hreturns.symm.trans hret)⟩)
  | faulted dir hflt hret =>
    exact .inr (.inr ⟨dir, hflt, List.append_right_eq_self.1 (hreturns.symm.trans hret)⟩)

end

section
/-! The ends of a synchronous transfer: the transfer-complete wait with its reconfiguration and the completion (42_polling.md R168), and the
answers that end the polling engine or its byte loop early (R166, R167). -/

namespace Sys2Proof.Machine

section
variable {s : State} {op : Instr} {x : Locals} {d : Idx} {rx tx : Option Buffer} {cb : Callback} {args : Word} {l l' : Label}

/-! ### The trace -/

theorem trace_record_of_no_cmd {e : Event} (h : e.cmd? = none) (s : State) : (s.record e).trace = s.trace := by
  rw [State.trace, record_hist, cmdsOf_append, cmdsOf, cmdsOf, List.filterMap_cons_none h]
  exact List.append_nil _

@[simp] theorem trace_emit (s : State) (c : Cmd) : (s.emit c).trace = s.trace ++ [c] := by
  rw [State.trace, emit_hist, cmdsOf_append]
  rfl

@[simp] theorem trace_choose (s : State) : s.choose.trace = s.trace := trace_record_of_no_cmd rfl s.consume

@[simp] theorem trace_finish (s : State) (o : Opcode) (r : Option Word) : (s.finish o r).trace = s.trace :=
  trace_record_of_no_cmd rfl { s with fg := .idle, result := r }

@[simp] theorem trace_cpuRead (s : State) (a : Word) : (s.cpuRead a).trace = s.trace := by
  have hallocate : (s.allocate a).trace = s.trace := by
    unfold State.allocate
    split
    · split <;> exact trace_choose s
    · rfl
  exact (trace_record_of_no_cmd rfl _).trans hallocate

/-! ### The transfer-complete wait -/

theorem transferComplete_of_timeout (h : s.answerWait = .timeout) (ready : Label) (op : Instr) (x : Locals) :
    transferComplete ready op x s =
      (s.consume.emit (.waitTxcomp (s.desc x.d).bus (s.desc x.d).timeout .timeout)).goto op .c1 { x with st := .timeout } := by
  rw [transferComplete, State.askTxcomp, h]
  rfl

theorem transferComplete_of_ready (h : s.answerWait = .ready) (ready : Label) (op : Instr) (x : Locals) :
    transferComplete ready op x s =
      (s.consume.emit (.waitTxcomp (s.desc x.d).bus (s.desc x.d).timeout .ready)).goto op ready x := by
  rw [transferComplete, State.askTxcomp, h]
  rfl

/-- The label of a transfer-complete wait, and the label of the completion after it (42_polling.md R162, R164; 45_fifo.md R260). -/
def syncEnds : List (Label × Label) := [(.pw10, .pw11), (.pr9, .pr10), (.f3, .f4)]

theorem exec_transferComplete (hl : (l, l') ∈ syncEnds) (hf : s.fg = .busy (.submit d rx tx cb args) l x) :
    exec (.submit d rx tx cb args) s = .next (transferComplete l' (.submit d rx tx cb args) x s) := by
  simp only [syncEnds, List.mem_cons, Prod.mk.injEq, List.not_mem_nil, or_false] at hl
  obtain ⟨rfl, rfl⟩ | ⟨rfl, rfl⟩ | ⟨rfl, rfl⟩ := hl <;> exact exec_submit_busy hf nofun nofun

theorem exec_completeSync (hl : (l, l') ∈ syncEnds) (hf : s.fg = .busy (.submit d rx tx cb args) l' x) :
    exec (.submit d rx tx cb args) s = .next (completeSync (.submit d rx tx cb args) x s) := by
  simp only [syncEnds, List.mem_cons, Prod.mk.injEq, List.not_mem_nil, or_false] at hl
  obtain ⟨rfl, rfl⟩ | ⟨rfl, rfl⟩ | ⟨rfl, rfl⟩ := hl <;> exact exec_submit_busy hf nofun nofun

theorem map_configCmds (cfg : Config) (e : Desc) : (configCmds cfg e).map Event.cmd =
    [.cmd (.pmcEnable (Config.pid cfg e.bus)), .cmd (.twiConfigure e.bus e.freq)] ++
      if (Config.bus cfg e.bus).hasFifo = true ∧ e.strategy = .fifo then
        [.cmd (.fifoConfig e.bus (BitVec.ofNat 32 ((Config.bus cfg e.bus).fifoDepth.toNat / 2))
          (BitVec.ofNat 32 ((Config.bus cfg e.bus).fifoDepth.toNat / 2)))]
      else [] := by
  rw [configCmds, List.map_append, apply_ite (List.map Event.cmd)]
  rfl

/-- A SUBMIT that stands at S9 with SUCCESS returns it (41_dispatch.md R150). -/
theorem exec_submit_s9_of_success (hf : s.fg = .busy (.submit d rx tx cb args) .s9 x) (hx : x.st = .success) :
    exec (.submit d rx tx cb args) s = .next (s.finish .submit (some 0)) :=
  (exec_submit_busy hf nofun nofun).trans (congrArg _ (submitS9_of_success hx))

/-- A SUBMIT that stands at S9 with an error returns it with the lock freed (41_dispatch.md R150). -/
theorem exec_submit_s9_of_error (hf : s.fg = .busy (.submit d rx tx cb args) .s9 x) (hx : x.st ≠ .success) :
    exec (.submit d rx tx cb args) s = .next ((s.unlock x.d).finish .submit (some x.st.code)) :=
  (exec_submit_busy hf nofun nofun).trans (congrArg _ (submitS9_of_error hx))

theorem Desc.withTimeout_unlock (dt : Word) (e : Desc) : { e.withTimeout dt with lock := false } =
    { e with timeout := if e.timeout = 0 then dt else e.timeout, lock := false } := by
  unfold Desc.withTimeout
  split <;> rfl

/-- A reconfiguration after an error, from C1 to the return of the error with the lock freed (42_polling.md R168). -/
theorem runOp_reconfigure_return (hw : s.cfg.wf = true) (hd : s.descOk d = true) (hx : x.d = d)
    (hf : s.fg = .busy (.submit d rx tx cb args) .c1 x) (hst : x.st ≠ .success) :
    runOp (.submit d rx tx cb args) 5 s = .next { s with
      fg := .idle
      result := some x.st.code
      descs := s.descs.modify d.toNat (fun e =>
        { e with timeout := if e.timeout = 0 then s.cfg.defaultTimeout else e.timeout, lock := false })
      ctl := s.ctl.modify (s.desc d).bus.toNat (fun y => { y with clk := true })
      hist := s.hist ++ (configCmds s.cfg (s.desc d)).map Event.cmd ++ [.ret .submit (some x.st.code)] } := by
  have hbus : Config.busOf s.cfg (Config.pid s.cfg (s.desc d).bus) = (s.desc d).bus := busOf_pid hw (descOk_iff.1 hd).1
  rw [runOp_add (runOp_reconfigure hx hf) 1, runOp_succ (exec_submit_s9_of_error rfl hst), runOp_zero, hx, hbus]
  simp only [State.finish, State.record, State.unlock, State.modifyDesc, modify_modify, Function.comp_def,
    Desc.withTimeout_unlock]

/-! ### The completion -/

/-- A callback and the unlock after it: the callback's command, and the lock freed once (40_config.md R127, 42_polling.md R168). -/
theorem unlock_invokeCallback (s : State) (cb : Callback) (d : Idx) (args : Word) :
    (s.invokeCallback cb d args).unlock d = { s with
      descs := s.descs.modify d.toNat (fun e => { e with lock := false })
      hist := s.hist ++ (callbackCmds cb d args).map Event.cmd } := by
  have twice (c : Cmd) : ((s.emit c).unlock d).unlock d = (s.emit c).unlock d := unlock_of_free (desc_unlock_lock _ d)
  cases cb with
  | none => exact congrArg (fun h => { s.unlock d with hist := h }) (List.append_nil _).symm
  | default => exact twice _
  | user uid rel =>
    cases rel with
    | true => exact twice _
    | false => rfl

theorem completeSync_of_admitted (h : s.callbackAdmitted (s.desc x.d).callback = true) (op : Instr) :
    completeSync op x s = { s with
      fg := .busy op .s9 { x with st := .success }
      descs := s.descs.modify x.d.toNat (fun e => { e with lock := false })
      hist := s.hist ++ (callbackCmds (s.desc x.d).callback x.d (s.desc x.d).cbArgs).map Event.cmd } := by
  rw [completeSync, if_pos h, unlock_invokeCallback]
  rfl

theorem completeSync_of_not_admitted (h : s.callbackAdmitted (s.desc x.d).callback = false) (op : Instr) :
    completeSync op x s = s.refuse .callFromCallback :=
  if_neg (Bool.eq_false_iff.1 h)

/-! ### The answers that end the engine or its byte loop -/

/-- A NACK goes to S9 with ACK (42_polling.md R167). -/
theorem exec_nack (hl : l ∈ [Label.pw3, .pw7, .pr5]) (hf : s.fg = .busy (.submit d rx tx cb args) l x)
    (hb : s.answerBit = true) : exec (.submit d rx tx cb args) s =
      .next ((s.consume.emit (.readNack (s.desc x.d).bus true)).engineReturn (.submit d rx tx cb args) x .ack) := by
  simp only [List.mem_cons, List.not_mem_nil, or_false] at hl
  rw [← hb]
  obtain rfl | rfl | rfl := hl <;> exact (exec_submit_busy hf nofun nofun).trans (congrArg _ (if_pos hb))

theorem pollW6_of_timeout (h : s.answerWait = .timeout) (op : Instr) (x : Locals) :
    pollW6 op x s = (s.consume.emit (.waitTxrdy (s.desc x.d).bus (s.desc x.d).timeout .timeout)).goto op .pw9 x := by
  rw [pollW6, State.askTxrdy, h]
  rfl

theorem pollR3_of_timeout (h : s.answerWait = .timeout) (op : Instr) (x : Locals) : pollR3 op x s =
    (s.consume.emit (.waitRxrdy (s.desc x.d).bus (s.desc x.d).timeout .timeout)).goto op .pr6 { x with aborted := true } := by
  rw [pollR3, State.askRxrdy, h]
  rfl

theorem pollR7_of_timeout (h : s.answerWait = .timeout) (op : Instr) (x : Locals) :
    pollR7 op x s = (s.consume.emit (.waitRxrdy (s.desc x.d).bus (s.desc x.d).timeout .timeout)).goto op .pr9 x := by
  rw [pollR7, State.askRxrdy, h]
  rfl

theorem pollR8_of_whole (h : x.aborted = false) (op : Instr) (s : State) : pollR8 op x s =
    ((s.askByte (s.desc x.d).bus).cpuWrite (x.buf + x.len - 1) s.answerByte).goto op .pr9 x := by
  rw [pollR8, h]
  rfl

/-- After an aborted loop the received byte is followed by the draw of its address (42_polling.md R164, R166). -/
theorem pollR8_of_aborted (h : x.aborted = true) (op : Instr) (s : State) : pollR8 op x s =
    ((s.askByte (s.desc x.d).bus).choose.cpuWrite
      (if (s.askByte (s.desc x.d).bus).answerBit then x.buf + x.len - 1 else x.buf + x.i) s.answerByte).goto op .pr9 x := by
  rw [pollR8, h]
  rfl

/-- PR8 receives a byte, may draw, and stores the byte at one of the two addresses (42_polling.md R164, R166). -/
theorem pollR8_eq_cpuWrite (op : Instr) (x : Locals) (s : State) : ∃ (u : State) (a : Word),
    (x.aborted = false → a = x.buf + x.len - 1) ∧
    (x.aborted = true → a = x.buf + x.len - 1 ∨ a = x.buf + x.i) ∧
    u.trace = s.trace ++ [.readByte (s.desc x.d).bus s.answerByte] ∧
    u = { s with answers := u.answers, drawNo := u.drawNo, hist := u.hist } ∧
    pollR8 op x s = (u.cpuWrite a s.answerByte).goto op .pr9 x := by
  have hasked : (s.askByte (s.desc x.d).bus).trace = s.trace ++ [.readByte (s.desc x.d).bus s.answerByte] := trace_emit s.consume _
  cases haborted : x.aborted with
  | false => exact ⟨_, _, fun _ => rfl, nofun, hasked, rfl, pollR8_of_whole haborted op s⟩
  | true =>
    have hdrawn := (trace_choose (s.askByte (s.desc x.d).bus)).trans hasked
    exact ⟨_, _, nofun, fun _ => ite_eq_or_eq _ _ _, hdrawn, rfl, pollR8_of_aborted haborted op s⟩

/-- A write after draws, at the end of a micro-step, changes memory, the cache, the draws and the history. -/
theorem goto_cpuWrite_frame {u : State} (hu : u = { s with answers := u.answers, drawNo := u.drawNo, hist := u.hist })
    (a : Word) (v : Byte) (op : Instr) (l : Label) (x : Locals) :
    let t := (u.cpuWrite a v).goto op l x
    t = { s with
      fg := .busy op l x
      mem := t.mem, cache := t.cache, answers := t.answers, drawNo := t.drawNo, hist := t.hist } := by
  intro t
  have hwrite : t = { u with
      fg := .busy op l x
      mem := t.mem, cache := t.cache, answers := t.answers, drawNo := t.drawNo, hist := t.hist } :=
    congrArg (State.goto · op l x) (cpuWrite_frame u a v)
  rw [hu] at hwrite
  exact hwrite

end

end Sys2Proof.Machine
end

section
open Sys2Proof Sys2Proof.Machine

/-- Settles O28: a timeout goes to C1 and from there to S9 by the reconfiguration, and the completion splits on the callback. -/
theorem transferComplete : Obligations.TransferComplete := by
  rintro s _ rx tx cb args x l l' rfl op e half hl
  refine ⟨fun hw hd hf hwait => ?_, fun hf hwait => ?_, fun hf hcb => ?_, fun hf hcb => ?_⟩
  · have hhist : s.hist ++ [Event.cmd (.waitTxcomp e.bus e.timeout .timeout), .cmd (.pmcEnable (Config.pid s.cfg e.bus)),
          .cmd (.twiConfigure e.bus e.freq)] ++
        (if (Config.bus s.cfg e.bus).hasFifo = true ∧ e.strategy = .fifo then [Event.cmd (.fifoConfig e.bus half half)] else []) =
        s.hist ++ [Event.cmd (.waitTxcomp e.bus e.timeout .timeout)] ++ (configCmds s.cfg e).map Event.cmd := by
      simp only [map_configCmds, List.append_assoc]
      rfl
    rw [runOp_succ ((exec_transferComplete hl hf).trans (congrArg _ (transferComplete_of_timeout hwait l' op x))),
      hhist]
    exact runOp_reconfigure_return (x := { x with st := .timeout }) hw hd rfl rfl nofun
  · exact (exec_transferComplete hl hf).trans (congrArg _ (transferComplete_of_ready hwait l' op x))
  · exact (exec_completeSync hl hf).trans (congrArg _ (completeSync_of_admitted hcb op))
  · exact (exec_completeSync hl hf).trans (congrArg _ (completeSync_of_not_admitted hcb op))

/-- Settles O26: the NACK returns ACK to S9, which frees the lock. -/
theorem pollNack : Obligations.PollNack := by
  rintro s _ rx tx cb args x l rfl op hf hl hb
  rw [runOp_succ (exec_nack hl hf hb), runOp_succ (exec_submit_s9_of_error (x := { x with st := .ack }) rfl nofun), runOp_zero]
  rw [List.append_cons]
  rfl

/-- Settles O27: each timeout goes to its label, and PR8 is the read of a byte and a store of it at one of the two addresses. -/
theorem pollByteTimeout : Obligations.PollByteTimeout := by
  rintro s _ rx tx cb args x rfl op e
  refine ⟨fun hwait => ⟨fun hf => ?_, fun hf => ?_, fun hf => ?_⟩, fun hw hs hf => ?_⟩
  · exact (exec_submit_busy hf nofun nofun).trans (congrArg _ (pollW6_of_timeout hwait op x))
  · exact (exec_submit_busy hf nofun nofun).trans (congrArg _ (pollR3_of_timeout hwait op x))
  · exact (exec_submit_busy hf nofun nofun).trans (congrArg _ (pollR7_of_timeout hwait op x))
  · obtain ⟨u, a, hwhole, haborted, htrace, hu, hmicro⟩ := pollR8_eq_cpuWrite op x s
    have hcfg : u.cfg = s.cfg := by rw [hu]
    have hmem : u.mem = s.mem := by rw [hu]
    have hcache : u.cache = s.cache := by rw [hu]
    have h0 := (Config.wf_line hw).1
    refine ⟨(u.cpuWrite a s.answerByte).goto op .pr9 x, s.answerByte, a,
      (exec_submit_busy hf nofun nofun).trans (congrArg _ hmicro), hwhole, haborted, ?_, fun z => ?_,
      goto_cpuWrite_frame hu a _ op .pr9 x⟩
    · exact (trace_cpuWrite u a _).trans htrace
    · rw [← cpuByte_congr hcfg hcache hmem]
      exact cpuByte_cpuWrite (hcfg ▸ h0) (memOk_congr hcfg hcache hmem hs) a z _

end

section
/-! The polling engine where every answer is good (42_polling.md R162 to R165): what a run of good answers emits, one byte of each loop, and
the loops from any index on. -/

namespace Sys2Proof.Machine

/-! ### Runs of good answers -/

/-- `n` micro-steps of an operation that emit `cs`, none of which was answered by a NACK, a timeout or a failure. -/
structure GoodRun (op : Instr) (n : Nat) (s t : State) (cs : List Cmd) : Prop where
  run : runOp op n s = .next t
  trace : t.trace = s.trace ++ cs
  good : ∀ c ∈ cs, c.failed = false

section GoodRun
variable {op : Instr} {n : Nat} {s t u : State} {cs : List Cmd}

theorem GoodRun.of_hist {es : List Event} (hrun : runOp op n s = .next t) (hes : t.hist = s.hist ++ es)
    (hgood : ∀ c ∈ cmdsOf es, c.failed = false) : GoodRun op n s t (cmdsOf es) :=
  ⟨hrun, (congrArg cmdsOf hes).trans (cmdsOf_append _ _), hgood⟩

theorem runOp_trace_grows (h : runOp op n s = .next t) : ∃ cs, t.trace = s.trace ++ cs := by
  obtain ⟨es, hes⟩ := runOp_hist_grows h
  exact ⟨cmdsOf es, (congrArg cmdsOf hes).trans (cmdsOf_append _ _)⟩

theorem GoodRun.zero (h : GoodRun op 0 s t cs) : t = s ∧ cs = [] := by
  obtain ⟨hrun, htrace, -⟩ := h
  obtain rfl := Host.Outcome.next.inj hrun
  exact ⟨rfl, List.append_right_eq_self.1 htrace.symm⟩

/-- The commands of the first micro-step are the first of the run, and their answers are good. -/
theorem GoodRun.step {ds : List Cmd} (h : GoodRun op (n + 1) s t cs) (hexec : exec op s = .next u)
    (hds : u.trace = s.trace ++ ds) : ∃ cs', cs = ds ++ cs' ∧ (∀ c ∈ ds, c.failed = false) ∧ GoodRun op n u t cs' := by
  obtain ⟨hrun, htrace, hgood⟩ := h
  rw [runOp_succ hexec] at hrun
  obtain ⟨cs', hcs'⟩ := runOp_trace_grows hrun
  obtain rfl : cs = ds ++ cs' := by
    apply List.append_cancel_left (as := s.trace)
    rw [← htrace, hcs', hds, List.append_assoc]
  exact ⟨cs', rfl, fun c hc => hgood c (List.mem_append_left _ hc), hrun, hcs', fun c hc => hgood c (List.mem_append_right _ hc)⟩

theorem GoodRun.silent (h : GoodRun op (n + 1) s t cs) (hexec : exec op s = .next u) (htrace : u.trace = s.trace) :
    GoodRun op n u t cs := by
  obtain ⟨cs', rfl, -, hrest⟩ := h.step (ds := []) hexec (htrace.trans (List.append_nil _).symm)
  exact hrest

theorem GoodRun.command {c : Cmd} (h : GoodRun op (n + 1) s t cs) (hexec : exec op s = .next u)
    (htrace : u.trace = s.trace ++ [c]) : ∃ cs', cs = c :: cs' ∧ c.failed = false ∧ GoodRun op n u t cs' := by
  obtain ⟨cs', rfl, hgood, hrest⟩ := h.step hexec htrace
  exact ⟨cs', rfl, hgood c (List.mem_singleton_self c), hrest⟩

end GoodRun

/-! ### What stays as it is -/

/-- The parameters and the descriptors are as before, and the canonical forms of memory and cache are kept. -/
structure State.Keeps (s u : State) : Prop where
  cfg : u.cfg = s.cfg
  descs : u.descs = s.descs
  memOk : s.memOk → u.memOk

/-- The CPU sees every byte as before. -/
structure State.Agrees (s u : State) : Prop extends s.Keeps u where
  cpu : u.cpuByte = s.cpuByte

/-- The CPU sees `v` at `a`, and every other byte as before. -/
structure State.Stores (s : State) (a : Word) (v : Byte) (u : State) : Prop extends s.Keeps u where
  cpu : ∀ b, u.cpuByte b = if b = a then v else s.cpuByte b

section Keeps
variable {s t u : State} {a : Word} {v : Byte}

theorem State.Keeps.desc (h : s.Keeps u) (d : Idx) : u.desc d = s.desc d := desc_congr h.descs d

theorem State.Keeps.callbackAdmitted (h : s.Keeps u) (cb : Callback) : u.callbackAdmitted cb = s.callbackAdmitted cb := by
  cases cb <;> simp [State.callbackAdmitted, h.cfg]

theorem State.Keeps.trans (h : s.Keeps u) (h' : u.Keeps t) : s.Keeps t :=
  ⟨h'.cfg.trans h.cfg, h'.descs.trans h.descs, h'.memOk ∘ h.memOk⟩

theorem State.Agrees.refl : s.Agrees s := ⟨⟨rfl, rfl, id⟩, rfl⟩

theorem State.Agrees.trans (h : s.Agrees u) (h' : u.Agrees t) : s.Agrees t := ⟨h.toKeeps.trans h'.toKeeps, h'.cpu.trans h.cpu⟩

theorem State.Agrees.goto (h : s.Agrees u) (op : Instr) (l : Label) (x : Locals) : s.Agrees (u.goto op l x) :=
  h.trans ⟨⟨rfl, rfl, id⟩, rfl⟩

theorem State.Agrees.cpuRead (h : s.Agrees u) (h0 : 0 < s.cfg.cacheLine) (a : Word) : s.Agrees (u.cpuRead a) :=
  h.trans ⟨⟨cpuRead_cfg u a, cpuRead_descs u a, memOk_cpuRead a⟩, funext (cpuByte_cpuRead (h.cfg ▸ h0) a)⟩

theorem State.Agrees.cpuWrite (h : s.Agrees u) (h0 : 0 < s.cfg.cacheLine) (hs : s.memOk) (a : Word) (v : Byte) :
    s.Stores a v (u.cpuWrite a v) := by
  refine ⟨h.toKeeps.trans ⟨cpuWrite_cfg u a v, cpuWrite_descs u a v, memOk_cpuWrite a v⟩, fun b => ?_⟩
  rw [cpuByte_cpuWrite (h.cfg ▸ h0) (h.memOk hs), h.cpu]

theorem State.Stores.trans (h : s.Stores a v u) (h' : u.Agrees t) : s.Stores a v t :=
  ⟨h.toKeeps.trans h'.toKeeps, fun b => h'.cpu ▸ h.cpu b⟩

end Keeps

/-! ### The answers -/

/-- A label of the polling engine that draws an answer, with its command under a good answer and where it then goes on
(42_polling.md R162, R164). -/
inductive GoodAnswer (e : Desc) (x : Locals) : Label → Cmd → Label → Locals → Prop
  | pw3 : GoodAnswer e x .pw3 (.readNack e.bus false) .pw4 x
  | pw6 : GoodAnswer e x .pw6 (.waitTxrdy e.bus e.timeout .ready) .pw7 x
  | pw7 : GoodAnswer e x .pw7 (.readNack e.bus false) .pw8 x
  | pw10 : GoodAnswer e x .pw10 (.waitTxcomp e.bus e.timeout .ready) .pw11 x
  | pr3 : GoodAnswer e x .pr3 (.waitRxrdy e.bus e.timeout .ready) .pr4 x
  | pr5 : GoodAnswer e x .pr5 (.readNack e.bus false) .pr2 { x with i := x.i + 1 }
  | pr7 : GoodAnswer e x .pr7 (.waitRxrdy e.bus e.timeout .ready) .pr8 x
  | pr9 : GoodAnswer e x .pr9 (.waitTxcomp e.bus e.timeout .ready) .pr10 x

section Submit
variable {d : Idx} {rx tx : Option Buffer} {cb : Callback} {args : Word} {n : Nat} {s t u : State} {cs : List Cmd} {x x' : Locals}
  {l l' : Label} {c : Cmd}

/-- The answer is the good one, or the command fails. -/
theorem exec_goodAnswer (ha : GoodAnswer (s.desc x.d) x l c l' x') (hf : s.fg = .busy (.submit d rx tx cb args) l x) :
    exec (.submit d rx tx cb args) s = .next ((s.consume.emit c).goto (.submit d rx tx cb args) l' x') ∨
    ∃ u c', exec (.submit d rx tx cb args) s = .next u ∧ u.trace = s.trace ++ [c'] ∧ c'.failed = true := by
  have hexec (h5 : l ≠ .c5) (h1 : l ≠ .w1) {u : State} (hu : submitMicro rx tx cb args (.submit d rx tx cb args) x s l = u) :
      exec (.submit d rx tx cb args) s = .next u := (exec_submit_busy hf h5 h1).trans (congrArg _ hu)
  have hfail {c' : Cmd} (hc : c'.failed = true) {l₂ : Label} {x₂ : Locals}
      (hu : exec (.submit d rx tx cb args) s = .next ((s.consume.emit c').goto (.submit d rx tx cb args) l₂ x₂)) :
      ∃ u c', exec (.submit d rx tx cb args) s = .next u ∧ u.trace = s.trace ++ [c'] ∧ c'.failed = true :=
    ⟨_, c', hu, trace_emit s.consume c', hc⟩
  cases ha with
  | pw3 | pw7 | pr5 =>
    cases hb : s.answerBit with
    | true => exact .inr (hfail rfl (exec_nack (by decide) hf hb))
    | false =>
      rw [← hb]
      exact .inl (hexec nofun nofun (if_neg (Bool.eq_false_iff.1 hb)))
  | pw6 =>
    cases hw : s.answerWait with
    | timeout => exact .inr (hfail rfl (hexec nofun nofun (pollW6_of_timeout hw _ x)))
    | ready => exact .inl (hexec nofun nofun (by rw [submitMicro, pollW6, State.askTxrdy, hw]; rfl))
  | pr3 =>
    cases hw : s.answerWait with
    | timeout => exact .inr (hfail rfl (hexec nofun nofun (pollR3_of_timeout hw _ x)))
    | ready => exact .inl (hexec nofun nofun (by rw [submitMicro, pollR3, State.askRxrdy, hw]; rfl))
  | pr7 =>
    cases hw : s.answerWait with
    | timeout => exact .inr (hfail rfl (hexec nofun nofun (pollR7_of_timeout hw _ x)))
    | ready => exact .inl (hexec nofun nofun (by rw [submitMicro, pollR7, State.askRxrdy, hw]; rfl))
  | pw10 | pr9 =>
    cases hw : s.answerWait with
    | timeout => exact .inr (hfail rfl (hexec nofun nofun (transferComplete_of_timeout hw _ _ x)))
    | ready => exact .inl (hexec nofun nofun (transferComplete_of_ready hw _ _ x))

theorem GoodAnswer.agrees {e : Desc} (ha : GoodAnswer e x l c l' x') (s : State) (op : Instr) :
    s.Agrees ((s.consume.emit c).goto op l' x') := by
  cases ha <;> exact ⟨⟨rfl, rfl, id⟩, rfl⟩

/-- A good run takes the good answer. -/
theorem GoodRun.answer (hs : s.Agrees u) (h : GoodRun (.submit d rx tx cb args) (n + 1) u t cs)
    (hf : u.fg = .busy (.submit d rx tx cb args) l x) (ha : GoodAnswer (s.desc x.d) x l c l' x') :
    ∃ v cs', v.fg = .busy (.submit d rx tx cb args) l' x' ∧ s.Agrees v ∧ cs = c :: cs' ∧
      GoodRun (.submit d rx tx cb args) n v t cs' := by
  obtain hexec | ⟨v, c', hexec, htrace, hfailed⟩ := exec_goodAnswer (hs.desc x.d ▸ ha) hf
  · obtain ⟨cs', rfl, -, hrest⟩ := h.command hexec (trace_emit u.consume c)
    exact ⟨_, cs', rfl, hs.trans (ha.agrees u _), rfl, hrest⟩
  · obtain ⟨-, -, hgood, -⟩ := h.command hexec htrace
    exact nomatch hgood.symm.trans hfailed

/-! ### The end of a transfer -/

/-- The operation returned SUCCESS, and of the descriptors it wrote the lock of `d` only, which is free. -/
structure Succeeds (d : Idx) (s t : State) : Prop where
  fg : t.fg = .idle
  result : t.result = some 0
  descs : t.descs = s.descs.modify d.toNat (fun e => { e with lock := false })

theorem Succeeds.of_keeps (h : Succeeds d u t) (hs : s.Keeps u) : Succeeds d s t :=
  ⟨h.fg, h.result, h.descs.trans (by rw [hs.descs])⟩

/-- The commands of a good transfer-complete wait and the completion (42_polling.md R168). -/
def completionCmds (e : Desc) (d : Idx) : List Cmd := .waitTxcomp e.bus e.timeout .ready :: callbackCmds e.callback d e.cbArgs

/-- The completion and the return after it (42_polling.md R168, 41_dispatch.md R150). -/
theorem GoodRun.completion (h : GoodRun (.submit d rx tx cb args) 2 s t cs) (hl : (l, l') ∈ syncEnds)
    (hf : s.fg = .busy (.submit d rx tx cb args) l' x) (hcb : s.callbackAdmitted (s.desc x.d).callback = true) :
    Succeeds x.d s t ∧ t.cpuByte = s.cpuByte ∧ cs = callbackCmds (s.desc x.d).callback x.d (s.desc x.d).cbArgs := by
  obtain ⟨cs', rfl, -, h1⟩ := h.step
    ((exec_completeSync hl hf).trans (congrArg _ (completeSync_of_admitted hcb (.submit d rx tx cb args))))
    ((cmdsOf_append _ _).trans (congrArg _ (cmdsOf_map_cmd _)))
  have hreturn := h1.silent
    (exec_submit_s9_of_success (x := { x with st := .success }) rfl rfl) (trace_finish _ _ _)
  obtain ⟨rfl, rfl⟩ := hreturn.zero
  exact ⟨⟨rfl, rfl, rfl⟩, rfl, List.append_nil _⟩

/-- From the transfer-complete wait to the return (42_polling.md R168). -/
theorem GoodRun.complete (hs : s.Agrees u) (h : GoodRun (.submit d rx tx cb args) 3 u t cs) (hl : (l, l') ∈ syncEnds)
    (hf : u.fg = .busy (.submit d rx tx cb args) l x)
    (ha : GoodAnswer (s.desc x.d) x l (.waitTxcomp (s.desc x.d).bus (s.desc x.d).timeout .ready) l' x)
    (hcb : s.callbackAdmitted (s.desc x.d).callback = true) :
    Succeeds x.d s t ∧ t.cpuByte = s.cpuByte ∧ cs = completionCmds (s.desc x.d) x.d := by
  obtain ⟨v, cs', hfv, hv, rfl, h1⟩ := h.answer hs hf ha
  obtain ⟨hsucceeds, hcpu, rfl⟩ := h1.completion hl hfv (by rw [hv.desc, hv.callbackAdmitted, hcb])
  exact ⟨hsucceeds.of_keeps hv.toKeeps, hcpu.trans hv.cpu, by rw [hv.desc, completionCmds]⟩

/-! ### The polling write -/

/-- The commands of one byte of a polling write after the first (42_polling.md R162). -/
def sendCmds (e : Desc) (v : Byte) : List Cmd := [.waitTxrdy e.bus e.timeout .ready, .readNack e.bus false, .writeByte e.bus v]

theorem State.Agrees.pollW1 (h : s.Agrees u) (h0 : 0 < s.cfg.cacheLine) (op : Instr) (x : Locals) : s.Agrees (pollW1 op x u) :=
  (h.cpuRead h0 x.buf).trans ⟨⟨rfl, rfl, id⟩, rfl⟩

theorem State.Agrees.pollW2 (h : s.Agrees u) (op : Instr) (x : Locals) : s.Agrees (pollW2 op x u) := by
  unfold Machine.pollW2
  split <;> exact h.trans ⟨⟨rfl, rfl, id⟩, rfl⟩

theorem State.Agrees.pollW8 (h : s.Agrees u) (h0 : 0 < s.cfg.cacheLine) (op : Instr) (x : Locals) : s.Agrees (pollW8 op x u) :=
  (h.cpuRead h0 (x.buf + x.i)).trans ⟨⟨rfl, rfl, id⟩, rfl⟩

theorem State.Agrees.pollW9 (h : s.Agrees u) (op : Instr) (x : Locals) : s.Agrees (pollW9 op x u) := by
  unfold Machine.pollW9
  split <;> exact h.trans ⟨⟨rfl, rfl, id⟩, rfl⟩

theorem trace_ite_emit (p : Prop) [Decidable p] (s : State) (c : Cmd) :
    (if p then s.emit c else s).trace = s.trace ++ if p then [c] else [] := by
  split
  · exact trace_emit s c
  · exact (List.append_nil _).symm

theorem trace_emit_cpuRead (s : State) (a : Word) (c : Cmd) : ((s.cpuRead a).emit c).trace = s.trace ++ [c] := by
  rw [trace_emit, trace_cpuRead]

theorem State.Agrees.trace_pollW2 (h : s.Agrees u) (op : Instr) (x : Locals) :
    (Machine.pollW2 op x u).trace = u.trace ++ if x.len = 1 then [Cmd.stop (s.desc x.d).bus] else [] := by
  rw [← h.desc]
  exact trace_ite_emit _ u _

theorem State.Agrees.trace_pollW8 (h : s.Agrees u) (op : Instr) (x : Locals) : (Machine.pollW8 op x u).trace =
    u.trace ++ [.writeByte (s.desc x.d).bus (s.cpuByte (x.buf + x.i))] := by
  rw [← h.desc, ← h.cpu]
  exact trace_emit_cpuRead u _ _

/-- PW1 to PW4: the first byte, and the stop of a one-byte write (42_polling.md R162, R163). -/
theorem GoodRun.sendFirst (h : GoodRun (.submit d rx tx cb args) (n + 4) s t cs) (h0 : 0 < s.cfg.cacheLine)
    (hf : s.fg = .busy (.submit d rx tx cb args) .pw1 x) :
    ∃ u cs', u.fg = .busy (.submit d rx tx cb args) .pw5 { x with i := 1 } ∧ s.Agrees u ∧
      cs = .startWrite (s.desc x.d).bus (s.target x.d) (s.cpuByte x.buf) ::
        ((if x.len = 1 then [Cmd.stop (s.desc x.d).bus] else []) ++ .readNack (s.desc x.d).bus false :: cs') ∧
      GoodRun (.submit d rx tx cb args) n u t cs' := by
  have ha1 := State.Agrees.refl.pollW1 h0 (.submit d rx tx cb args) x
  have ha2 := ha1.pollW2 (.submit d rx tx cb args) x
  obtain ⟨_, rfl, -, h1⟩ := h.command (exec_submit_busy hf nofun nofun) (trace_emit_cpuRead s x.buf _)
  obtain ⟨_, rfl, -, h2⟩ := h1.step (exec_submit_busy (l := .pw2) rfl nofun nofun) (ha1.trace_pollW2 _ x)
  obtain ⟨v, cs', hfv, hv, rfl, h3⟩ := h2.answer ha2 rfl .pw3
  have h4 := h3.silent (exec_submit_busy hfv nofun nofun) rfl
  exact ⟨_, cs', rfl, hv.goto _ _ _, rfl, h4⟩

/-- One byte of the loop, PW5 to PW8 (42_polling.md R162). -/
theorem GoodRun.send (h : GoodRun (.submit d rx tx cb args) (n + 4) s t cs) (h0 : 0 < s.cfg.cacheLine)
    (hf : s.fg = .busy (.submit d rx tx cb args) .pw5 x) (hi : x.i ≠ x.len) :
    ∃ u cs', u.fg = .busy (.submit d rx tx cb args) .pw5 { x with i := x.i + 1 } ∧ s.Agrees u ∧
      cs = sendCmds (s.desc x.d) (s.cpuByte (x.buf + x.i)) ++ cs' ∧ GoodRun (.submit d rx tx cb args) n u t cs' := by
  have h5 := h.silent (exec_submit_busy hf nofun nofun) rfl
  rw [submitMicro, pollW5, if_neg hi] at h5
  obtain ⟨v, _, hfv, hv, rfl, h6⟩ := h5.answer (.goto .refl _ _ _) rfl .pw6
  obtain ⟨w, _, hfw, hw, rfl, h7⟩ := h6.answer hv hfv .pw7
  obtain ⟨cs', rfl, -, h8⟩ := h7.command (exec_submit_busy hfw nofun nofun) (hw.trace_pollW8 _ x)
  exact ⟨_, cs', rfl, hw.pollW8 h0 _ x, rfl, h8⟩

/-- From the loop's test at any index to the return (42_polling.md R162). -/
theorem GoodRun.sendRest {k : Nat} (h : GoodRun (.submit d rx tx cb args) (4 * k + 5) s t cs) (h0 : 0 < s.cfg.cacheLine)
    (hf : s.fg = .busy (.submit d rx tx cb args) .pw5 x) (hk : x.i.toNat + k = x.len.toNat)
    (hcb : s.callbackAdmitted (s.desc x.d).callback = true) :
    Succeeds x.d s t ∧ t.cpuByte = s.cpuByte ∧
      cs = (List.range' x.i.toNat k).flatMap (fun j => sendCmds (s.desc x.d) (s.cpuByte (x.buf + BitVec.ofNat 32 j))) ++
        ((if 1 < x.len.toNat then [Cmd.stop (s.desc x.d).bus] else []) ++ completionCmds (s.desc x.d) x.d) := by
  induction k generalizing s x cs with
  | zero =>
    have h5 := h.silent (exec_submit_busy hf nofun nofun) rfl
    rw [submitMicro, pollW5, if_pos (BitVec.eq_of_toNat_eq hk)] at h5
    obtain ⟨_, rfl, -, h9⟩ := h5.step (exec_submit_busy (l := .pw9) rfl nofun nofun) (trace_ite_emit _ _ _)
    obtain ⟨hsucceeds, hcpu, rfl⟩ := h9.complete (.pollW9 (.goto .refl _ _ _) _ x) (by decide) rfl .pw10 hcb
    exact ⟨hsucceeds, hcpu, rfl⟩
  | succ k ih =>
    have hi : x.i ≠ x.len := fun h => by rw [h] at hk; omega
    have hnext := toNat_succ_of_lt (i := x.i) (len := x.len) (by omega)
    obtain ⟨u, cs', hfu, hu, rfl, hrest⟩ := GoodRun.send (n := 4 * k + 5) h h0 hf hi
    obtain ⟨hsucceeds, hcpu, rfl⟩ := ih hrest (hu.cfg ▸ h0) hfu (by simp only [hnext]; omega)
      (by rw [hu.desc, hu.callbackAdmitted, hcb])
    refine ⟨hsucceeds.of_keeps hu.toKeeps, hcpu.trans hu.cpu, ?_⟩
    simp only [hnext, hu.desc, hu.cpu, List.range'_succ, List.flatMap_cons, List.append_assoc, BitVec.ofNat_toNat,
      BitVec.setWidth_eq]

/-! ### The polling read -/

/-- The commands of one byte of a polling read before the last (42_polling.md R164). -/
def receiveCmds (e : Desc) (v : Byte) : List Cmd := [.waitRxrdy e.bus e.timeout .ready, .readByte e.bus v, .readNack e.bus false]

theorem State.Agrees.askByte (h : s.Agrees u) (b : Idx) : s.Agrees (u.askByte b) := h.trans ⟨⟨rfl, rfl, id⟩, rfl⟩

theorem State.Agrees.pollR4 (h : s.Agrees u) (h0 : 0 < s.cfg.cacheLine) (hs : s.memOk) (op : Instr) (x : Locals) :
    s.Stores (x.buf + x.i) u.answerByte (pollR4 op x u) :=
  ((h.askByte (u.busOfDesc x.d)).cpuWrite h0 hs _ _).trans (.goto .refl _ _ _)

theorem State.Agrees.trace_pollR4 (h : s.Agrees u) (op : Instr) (x : Locals) :
    (Machine.pollR4 op x u).trace = u.trace ++ [.readByte (s.desc x.d).bus u.answerByte] := by
  rw [← h.desc]
  exact (trace_cpuWrite _ _ _).trans (trace_emit _ _)

theorem State.Agrees.pollR6 (h : s.Agrees u) (op : Instr) (x : Locals) : s.Agrees (pollR6 op x u) := h.trans ⟨⟨rfl, rfl, id⟩, rfl⟩

theorem State.Agrees.pollR8 (h : s.Agrees u) (h0 : 0 < s.cfg.cacheLine) (hs : s.memOk) (ha : x.aborted = false) (op : Instr) :
    s.Stores (x.buf + x.len - 1) u.answerByte (pollR8 op x u) := by
  rw [pollR8_of_whole ha]
  exact ((h.askByte (u.desc x.d).bus).cpuWrite h0 hs _ _).trans (.goto .refl _ _ _)

theorem State.Agrees.trace_pollR8 (h : s.Agrees u) (ha : x.aborted = false) (op : Instr) :
    (Machine.pollR8 op x u).trace = u.trace ++ [.readByte (s.desc x.d).bus u.answerByte] := by
  rw [pollR8_of_whole ha, ← h.desc]
  exact (trace_cpuWrite _ _ _).trans (trace_emit _ _)

/-- One byte of the loop, PR2 to PR5 (42_polling.md R164). -/
theorem GoodRun.receive (h : GoodRun (.submit d rx tx cb args) (n + 4) s t cs) (h0 : 0 < s.cfg.cacheLine) (hs : s.memOk)
    (hf : s.fg = .busy (.submit d rx tx cb args) .pr2 x) (hi : x.i ≠ x.len - 1) :
    ∃ u v cs', u.fg = .busy (.submit d rx tx cb args) .pr2 { x with i := x.i + 1 } ∧ s.Stores (x.buf + x.i) v u ∧
      cs = receiveCmds (s.desc x.d) v ++ cs' ∧ GoodRun (.submit d rx tx cb args) n u t cs' := by
  have h2 := h.silent (exec_submit_busy hf nofun nofun) rfl
  rw [submitMicro, pollR2, if_neg hi] at h2
  obtain ⟨w, _, hfw, hw, rfl, h3⟩ := h2.answer (.goto .refl _ _ _) rfl .pr3
  have hstored := hw.pollR4 h0 hs (.submit d rx tx cb args) x
  obtain ⟨_, rfl, -, h4⟩ := h3.command (exec_submit_busy hfw nofun nofun) (hw.trace_pollR4 _ x)
  obtain ⟨u, cs', hfu, hu, rfl, h5⟩ := h4.answer .refl rfl .pr5
  exact ⟨u, w.answerByte, cs', hfu, hstored.trans hu, by rw [← hstored.desc]; rfl, h5⟩

/-- From the loop's end to the return: the stop one byte early and the final byte (42_polling.md R164, R165). -/
theorem GoodRun.receiveLast (h : GoodRun (.submit d rx tx cb args) 7 s t cs) (h0 : 0 < s.cfg.cacheLine) (hs : s.memOk)
    (hf : s.fg = .busy (.submit d rx tx cb args) .pr2 x) (hi : x.i = x.len - 1) (ha : x.aborted = false)
    (hcb : s.callbackAdmitted (s.desc x.d).callback = true) :
    ∃ v, Succeeds x.d s t ∧ (∀ a, t.cpuByte a = if a = x.buf + x.i then v else s.cpuByte a) ∧
      cs = .stop (s.desc x.d).bus :: .waitRxrdy (s.desc x.d).bus (s.desc x.d).timeout .ready ::
        .readByte (s.desc x.d).bus v :: completionCmds (s.desc x.d) x.d := by
  have h2 := h.silent (exec_submit_busy hf nofun nofun) rfl
  rw [submitMicro, pollR2, if_pos hi] at h2
  obtain ⟨_, rfl, -, h6⟩ := h2.command (exec_submit_busy (l := .pr6) rfl nofun nofun) (trace_emit _ _)
  obtain ⟨w, _, hfw, hw, rfl, h7⟩ := h6.answer (.pollR6 (.goto .refl _ _ _) _ x) rfl .pr7
  have hstored := hw.pollR8 h0 hs ha (.submit d rx tx cb args)
  obtain ⟨_, rfl, -, h8⟩ := h7.command (exec_submit_busy hfw nofun nofun) (hw.trace_pollR8 ha _)
  have hf8 : (Machine.pollR8 (.submit d rx tx cb args) x w).fg = .busy (.submit d rx tx cb args) .pr9 x := by
    rw [pollR8_of_whole ha]
    rfl
  obtain ⟨hsucceeds, hcpu, rfl⟩ := h8.complete .refl (by decide) hf8 .pr9
    (by rw [submitMicro, hstored.desc, hstored.callbackAdmitted, hcb])
  refine ⟨w.answerByte, hsucceeds.of_keeps hstored.toKeeps, fun a => ?_, ?_⟩
  · rw [hcpu, hi, ← add_sub_assoc]
    exact hstored.cpu a
  · rw [submitMicro, hstored.desc]
    rfl

theorem eq_sub_one_iff {i len : Word} (h : 0 < len.toNat) : i = len - 1 ↔ i.toNat + 1 = len.toNat := by
  have hlast : (len - 1).toNat = len.toNat - 1 := BitVec.toNat_sub_of_le h
  rw [← BitVec.toNat_inj, hlast]
  omega

/-- The address at its distance from the start of the buffer. -/
theorem add_ofNat_sub {a b : Word} (h : b.toNat ≤ a.toNat) : b + BitVec.ofNat 32 (a.toNat - b.toNat) = a := by
  rw [← BitVec.toNat_sub_of_le h, BitVec.ofNat_toNat, BitVec.setWidth_eq, add_sub_cancel]

/-- From the loop's test at any index to the return (42_polling.md R164): each byte is the one the CPU sees at its place in the end. -/
theorem GoodRun.receiveRest {k : Nat} (h : GoodRun (.submit d rx tx cb args) (4 * k + 7) s t cs) (h0 : 0 < s.cfg.cacheLine)
    (hs : s.memOk) (hf : s.fg = .busy (.submit d rx tx cb args) .pr2 x) (hk : x.i.toNat + k + 1 = x.len.toNat)
    (hbuf : x.buf.toNat + x.len.toNat ≤ 2 ^ 32) (ha : x.aborted = false)
    (hcb : s.callbackAdmitted (s.desc x.d).callback = true) :
    Succeeds x.d s t ∧
      (∀ a : Word, a.toNat < x.buf.toNat + x.i.toNat ∨ x.buf.toNat + x.len.toNat ≤ a.toNat → t.cpuByte a = s.cpuByte a) ∧
      cs = (List.range' x.i.toNat k).flatMap (fun j => receiveCmds (s.desc x.d) (t.cpuByte (x.buf + BitVec.ofNat 32 j))) ++
        .stop (s.desc x.d).bus :: .waitRxrdy (s.desc x.d).bus (s.desc x.d).timeout .ready ::
        .readByte (s.desc x.d).bus (t.cpuByte (x.buf + BitVec.ofNat 32 (x.len.toNat - 1))) ::
        completionCmds (s.desc x.d) x.d := by
  have hpos : 0 < x.len.toNat := by omega
  have haddr : (x.buf + x.i).toNat = x.buf.toNat + x.i.toNat := BitVec.toNat_add_of_lt (by omega)
  induction k generalizing s x cs with
  | zero =>
    obtain ⟨v, hsucceeds, hcpu, rfl⟩ := GoodRun.receiveLast h h0 hs hf ((eq_sub_one_iff hpos).2 hk) ha hcb
    refine ⟨hsucceeds, fun a hout => ?_, ?_⟩
    · rw [hcpu, if_neg]
      rintro rfl
      omega
    · rw [← hk, Nat.add_sub_cancel, Nat.add_zero, BitVec.ofNat_toNat, BitVec.setWidth_eq, hcpu, if_pos rfl]
      rfl
  | succ k ih =>
    have hi : x.i ≠ x.len - 1 := fun h => by have := (eq_sub_one_iff hpos).1 h; omega
    have hnext := toNat_succ_of_lt (i := x.i) (len := x.len) (by omega)
    obtain ⟨u, v, cs', hfu, hu, rfl, hrest⟩ := GoodRun.receive (n := 4 * k + 7) h h0 hs hf hi
    obtain ⟨hsucceeds, hcpu, rfl⟩ := ih hrest (hu.cfg ▸ h0) (hu.memOk hs) hfu (by simp only [hnext]; omega) hbuf ha
      (by rw [hu.desc, hu.callbackAdmitted, hcb]) hpos (BitVec.toNat_add_of_lt (by simp only [hnext]; omega))
    simp only [hnext] at hcpu
    have hbyte : t.cpuByte (x.buf + x.i) = v := by rw [hcpu _ (.inl (by omega)), hu.cpu, if_pos rfl]
    refine ⟨hsucceeds.of_keeps hu.toKeeps, fun a hout => ?_, ?_⟩
    · rw [hcpu a (by omega), hu.cpu, if_neg]
      rintro rfl
      omega
    · simp only [hnext, hu.desc, List.range'_succ, List.flatMap_cons, List.append_assoc, BitVec.ofNat_toNat,
        BitVec.setWidth_eq, hbyte]

end Submit

end Sys2Proof.Machine
end

section
open Sys2Proof Sys2Proof.Machine

/-- Settles O24: the first byte, then the loop from index 1 on. -/
theorem pollWriteGood : Obligations.PollWriteGood := by
  rintro s t _ rx tx cb args x es rfl op e hw hf hlen hcb hrun hes hgood
  have h0 := (Config.wf_line hw).1
  have hpos : x.len.toNat ≠ 0 := fun h => hlen (BitVec.eq_of_toNat_eq h)
  have h : GoodRun op (4 * (x.len.toNat - 1) + 5 + 4) s t (cmdsOf es) := by
    have hcount : 4 * (x.len.toNat - 1) + 5 + 4 = 4 * x.len.toNat + 5 := by omega
    rw [hcount]
    exact .of_hist hrun hes hgood
  obtain ⟨u, cs', hfu, hu, hcs, hrest⟩ := h.sendFirst h0 hf
  obtain ⟨⟨hfg, hresult, hdescs⟩, hcpu, rfl⟩ := hrest.sendRest (hu.cfg ▸ h0) hfu (by simp; omega)
    (by rw [hu.desc, hu.callbackAdmitted, hcb])
  refine ⟨hfg, hresult, hdescs.trans (by rw [hu.descs]), ?_, fun a => by rw [hcpu, hu.cpu]⟩
  rw [hcs, hu.desc, hu.cpu]
  simp only [List.range'_eq_map_range, List.flatMap_map, List.append_assoc, BitVec.reduceToNat, Nat.add_comm 1]
  rfl

/-- Settles O25: the loop from index 0 on, where the received bytes are those the CPU sees in the buffer in the end. -/
theorem pollReadGood : Obligations.PollReadGood := by
  rintro s t _ rx tx cb args x es rfl op e hw hs hf hlen hbuf hcb hrun hes hgood
  have hpos : x.len.toNat ≠ 0 := fun h => hlen (BitVec.eq_of_toNat_eq h)
  have h : GoodRun op (4 * (x.len.toNat - 1) + 7 + 1) s t (cmdsOf es) := by
    have hcount : 4 * (x.len.toNat - 1) + 7 + 1 = 4 * x.len.toNat + 4 := by omega
    rw [hcount]
    exact .of_hist hrun hes hgood
  obtain ⟨cs', hcs, -, h1⟩ := h.command (exec_submit_busy hf nofun nofun) (trace_emit _ _)
  obtain ⟨⟨hfg, hresult, hdescs⟩, hcpu, rfl⟩ := h1.receiveRest (Config.wf_line hw).1 hs
    (x := { x with i := 0, aborted := false }) rfl (by simp; omega) hbuf rfl hcb
  refine ⟨hfg, hresult, hdescs, fun j => t.cpuByte (x.buf + BitVec.ofNat 32 j), ?_, fun a => ?_⟩
  · rw [hcs, List.range_eq_range']
    simp only [List.append_assoc]
    rfl
  · split_ifs with hin
    · exact congrArg t.cpuByte (add_ofNat_sub hin.1).symm
    · exact hcpu a (by simp; omega)

end

section
/-! The submission of an asynchronous transfer: which slot A1 takes and what it binds (43_async.md R191 to R193), and the run from the bound
slot to the return (R190, R194 to R196). -/

namespace Sys2Proof.Machine

variable {s u : State} {d : Idx} {rx tx : Option Buffer} {cb : Callback} {args : Word} {x : Locals} {y : Slot} {k : Nat}

/-! ### The slot that is taken -/

theorem slot_of_lt (h : k < s.slots.length) : s.slots[k]? = some (s.slot k) := by
  simp [State.slot, List.getD_eq_getElem?_getD, h]

/-- A number taken round the table is a slot's. -/
theorem slot_of_mod (hlen : s.slots.length = s.cfg.nSlots) (h : 0 < s.cfg.nSlots) (i : Nat) :
    s.slots[i % s.cfg.nSlots]? = some (s.slot (i % s.cfg.nSlots)) :=
  slot_of_lt (by simpa [hlen] using Nat.mod_lt i h)

/-- Under OVERWRITE the slot is RR's, free or not (43_async.md R191). -/
theorem allocSlot_of_overwrite (hp : s.cfg.slotPolicy = .overwrite) (hk : s.slots[s.rr]? = some y) :
    allocSlot s = some (s.rr, { s with
      rr := (s.rr + 1) % s.cfg.nSlots
      hz := { s.hz with slotOverrun := s.hz.slotOverrun || !y.free } }) := by
  rw [allocSlot, hp, ← slot_of_getElem? hk]
  rfl

/-- The scan answers the first free slot from RR on (43_async.md R192). -/
theorem scanSlot_of_first_free {j : Nat} (hj : j < s.cfg.nSlots) (hfree : (s.slot ((s.rr + j) % s.cfg.nSlots)).free = true)
    (hfirst : ∀ i < j, (s.slot ((s.rr + i) % s.cfg.nSlots)).free = false) :
    s.scanSlot = some ((s.rr + j) % s.cfg.nSlots) := by
  have hfind : (List.range s.cfg.nSlots).find? (fun i => (s.slot ((s.rr + i) % s.cfg.nSlots)).free) = some j :=
    List.find?_range_eq_some.2 ⟨hfree, List.mem_range.2 hj, fun i hi => by simp [hfirst i hi]⟩
  rw [State.scanSlot, List.find?_map]
  exact congrArg (Option.map _) hfind

/-- The scan looks at slots of the table, and answers none of a full one (43_async.md R192). -/
theorem scanSlot_of_full (hlen : s.slots.length = s.cfg.nSlots) (hfull : ∀ y ∈ s.slots, y.free = false) :
    s.scanSlot = none := by
  refine List.find?_eq_none.2 fun k hk => ?_
  obtain ⟨j, hj, rfl⟩ := List.mem_map.1 hk
  have hmem := List.mem_of_getElem? (slot_of_mod hlen (Nat.zero_lt_of_lt (List.mem_range.1 hj)) (s.rr + j))
  rw [hfull _ hmem]
  exact Bool.false_ne_true

/-- Under FAIL_FAST the slot is the scan's (43_async.md R192). -/
theorem allocSlot_of_failFast (hp : s.cfg.slotPolicy = .failFast) :
    allocSlot s = s.scanSlot.map fun k => (k, { s with rr := (k + 1) % s.cfg.nSlots }) := by
  rw [allocSlot, hp]

/-! ### The binding -/

theorem boundElsewhere_iff {p : Idx} : s.boundElsewhere k p = true ↔ ∃ i z, i ≠ k ∧ s.slots[i]? = some z ∧ z.pid = some p := by
  simp only [State.boundElsewhere, List.any_eq_true, List.mem_range, Bool.and_eq_true, bne_iff_ne, beq_iff_eq]
  constructor
  · rintro ⟨i, hi, hne, hp⟩
    exact ⟨i, _, hne, slot_of_lt hi, hp⟩
  · rintro ⟨i, z, hne, hz, hp⟩
    exact ⟨i, (List.getElem?_eq_some_iff.1 hz).1, hne, (slot_of_getElem? hz).symm ▸ hp⟩

/-- The slot of the transfer, every field as R193 gives it. -/
def State.transferSlot (s : State) (x : Locals) : Slot where
  desc := s.desc x.d
  owner := some x.d
  ptr := some (match x.dir with | .write => x.buf + 1 | .read => x.buf)
  transferred := 0
  size := match x.dir with | .write => x.len - 1 | .read => x.len
  pid := some (Config.pid s.cfg (s.desc x.d).bus)
  bufLo := x.buf
  bufHi := x.buf + x.len

theorem bindSlot_eq (hk : s.slots[k]? = some y) : bindSlot k x s = { s with
    hz := { s.hz with dupBinding := s.hz.dupBinding || s.boundElsewhere k (Config.pid s.cfg (s.desc x.d).bus) }
    slots := s.slots.set k (s.transferSlot x) } := by
  have hset : s.slots.modify k (fun _ => s.transferSlot x) = s.slots.set k (s.transferSlot x) := modify_eq_set hk
  rw [← hset]
  rfl

/-- A1 with a slot: the allocation, then the binding, in one micro-step (43_async.md R190). -/
theorem exec_asyncA1_of_some (hf : s.fg = .busy (.submit d rx tx cb args) .a1 x) (ha : allocSlot s = some (k, u))
    (hk : u.slots[k]? = some y) : exec (.submit d rx tx cb args) s = .next { u with
      fg := .busy (.submit d rx tx cb args) .a2 { x with slot := some k }
      hz := { u.hz with dupBinding := u.hz.dupBinding || u.boundElsewhere k (Config.pid u.cfg (u.desc x.d).bus) }
      slots := u.slots.set k (u.transferSlot x) } := by
  rw [exec_submit_busy hf nofun nofun, submitMicro, asyncA1, ha]
  exact congrArg (fun t => Host.Outcome.next (State.goto t (.submit d rx tx cb args) .a2 { x with slot := some k })) (bindSlot_eq hk)

/-- A1 without a slot returns NO_SLOT (43_async.md R192). -/
theorem exec_asyncA1_of_none (hf : s.fg = .busy (.submit d rx tx cb args) .a1 x) (ha : allocSlot s = none) :
    exec (.submit d rx tx cb args) s = .next (s.engineReturn (.submit d rx tx cb args) x .noSlot) := by
  rw [exec_submit_busy hf nofun nofun, submitMicro, asyncA1, ha]

end Sys2Proof.Machine
end

section
open Sys2Proof Sys2Proof.Machine

/-- Settles O29: A1 binds the slot of the scan, which is the first free one or none. -/
theorem asyncAllocateFailFast : Obligations.AsyncAllocateFailFast := by
  rintro s _ rx tx cb args x rfl op p hp hlen hf
  refine ⟨fun j k y hj hk hy hfree hfirst => ?_, fun hfull => ?_⟩
  · subst hk
    have hslot := slot_of_mod hlen (Nat.zero_lt_of_lt hj)
    have hscan := scanSlot_of_first_free hj ((slot_of_getElem? hy).symm ▸ hfree) fun i hi => hfirst i _ hi (hslot _)
    have halloc := (allocSlot_of_failFast hp).trans (congrArg (Option.map _) hscan)
    refine ⟨_, exec_asyncA1_of_some hf halloc hy, rfl, ?_⟩
    rw [Bool.or_eq_true, boundElsewhere_iff]
    rfl
  · have halloc := (allocSlot_of_failFast hp).trans (congrArg (Option.map _) (scanSlot_of_full hlen hfull))
    exact exec_asyncA1_of_none hf halloc

/-- Settles O30: A1 binds RR's slot. -/
theorem asyncAllocateOverwrite : Obligations.AsyncAllocateOverwrite := by
  rintro s _ rx tx cb args x y rfl op p hp hy hf
  refine ⟨_, exec_asyncA1_of_some hf (allocSlot_of_overwrite hp hy) hy, rfl, ?_⟩
  rw [Bool.or_eq_true, boundElsewhere_iff]
  rfl

end

section
/-! From the bound slot to the return of an asynchronous submission: A2 to A6 and S9 (43_async.md R190, R194 to R196). -/

namespace Sys2Proof.Machine

variable {s u : State} {d : Idx} {rx tx : Option Buffer} {cb : Callback} {args : Word} {x : Locals}

/-- A read changes the cache, the draws and the history. -/
theorem cpuRead_frame (s : State) (a : Word) : ∃ c as n h,
    s.cpuRead a = { s with cache := c, answers := as, drawNo := n, hist := h } := by
  unfold State.cpuRead State.allocate
  split
  · split <;> exact ⟨_, _, _, _, rfl⟩
  · exact ⟨_, _, _, _, rfl⟩

/-- The micro-step that starts a transfer, by its direction (43_async.md R190). -/
def Dir.startLabel : Dir → Label
  | .write => .a4w
  | .read => .a4r

/-- The ready event of a direction (43_async.md R195, R196). -/
def Dir.readyEvent : Dir → BitVec 3
  | .write => evTxrdy
  | .read => evRxrdy

/-- The commands that start a transfer, in the order of its direction; a write carries byte 0 (43_async.md R195, R196). -/
def Dir.startCmds (b : Idx) (a : Target) (v : Byte) : Dir → List Cmd
  | .write => [.startWrite b a v, .intEnable b evTxrdy]
  | .read => [.intEnable b evRxrdy, .startRead b a]

/-- The state after A2 and A3: the shared handler and the line of the descriptor's bus (43_async.md R194). -/
def State.lineReady (s : State) (op : Instr) (x : Locals) : State := { s with
  fg := .busy op x.dir.startLabel x
  ctl := s.ctl.modify (Config.busOf s.cfg (Config.pid s.cfg (s.desc x.d).bus)).toNat
    (fun y => { y with vec := .shared, line := true })
  hist := s.hist ++ [.cmd (.irqSetHandler (Config.pid s.cfg (s.desc x.d).bus)),
    .cmd (.irqLineEnable (Config.pid s.cfg (s.desc x.d).bus))] }

theorem asyncA3_asyncA2 (op : Instr) (x : Locals) (s : State) : asyncA3 op x (asyncA2 op x s) = s.lineReady op x := by
  have hctl (b : Nat) : (s.ctl.modify b (fun y => { y with vec := .shared })).modify b (fun y => { y with line := true }) =
      s.ctl.modify b (fun y => { y with vec := .shared, line := true }) := modify_modify _ _ _ _
  rw [State.lineReady, ← hctl, List.append_cons]
  rfl

theorem runOp_asyncA2 (hf : s.fg = .busy (.submit d rx tx cb args) .a2 x) :
    runOp (.submit d rx tx cb args) 2 s = .next (s.lineReady (.submit d rx tx cb args) x) := by
  rw [runOp_succ (exec_submit_busy hf nofun nofun), runOp_succ (exec_submit_busy (l := .a3) (x := x) rfl nofun nofun), runOp_zero]
  exact congrArg _ (asyncA3_asyncA2 _ x s)

/-- What the two micro-steps that start a transfer leave: the ready event is enabled, the CPU sees every byte as before, and the commands
are those of the direction (43_async.md R195, R196). -/
structure Starts (op : Instr) (x : Locals) (s t : State) : Prop where
  frame : t = { s with
    fg := .busy op .a6 x, cache := t.cache, answers := t.answers, drawNo := t.drawNo, hist := t.hist
    ctl := s.ctl.modify (s.desc x.d).bus.toNat (fun y => { y with inten := y.inten ||| x.dir.readyEvent }) }
  cpu : ∀ z, t.cpuByte z = s.cpuByte z
  trace : t.trace = s.trace ++ x.dir.startCmds (s.desc x.d).bus (s.target x.d) (s.cpuByte x.buf)

theorem asyncA5w_starts (h0 : 0 < s.cfg.cacheLine) (hdir : x.dir = .write) (op : Instr) :
    Starts op x s (asyncA5w op x (asyncA4w op x s)) := by
  obtain ⟨c, as, n, h, hread⟩ := cpuRead_frame s x.buf
  have hcpu := cpuByte_cpuRead h0 x.buf
  have htrace := trace_cpuRead s x.buf
  rw [asyncA4w, hread]
  rw [hread] at hcpu htrace
  refine ⟨?_, hcpu, ?_⟩
  · rw [hdir]
    rfl
  · rw [hdir, Dir.startCmds, List.append_cons, ← htrace]
    exact (trace_emit _ _).trans (congrArg (· ++ _) (trace_emit _ _))

theorem asyncA5r_starts (hdir : x.dir = .read) (op : Instr) : Starts op x s (asyncA5r op x (asyncA4r op x s)) := by
  refine ⟨?_, fun _ => rfl, ?_⟩
  · rw [hdir]
    rfl
  · rw [hdir, Dir.startCmds, List.append_cons]
    exact (trace_emit _ _).trans (congrArg (· ++ _) (trace_emit _ _))

/-- A start, by the direction (43_async.md R190). -/
theorem runOp_start (h0 : 0 < s.cfg.cacheLine) (hf : s.fg = .busy (.submit d rx tx cb args) x.dir.startLabel x) :
    ∃ t, runOp (.submit d rx tx cb args) 2 s = .next t ∧ Starts (.submit d rx tx cb args) x s t := by
  cases hdir : x.dir with
  | write =>
    rw [hdir] at hf
    refine ⟨_, ?_, asyncA5w_starts h0 hdir _⟩
    rw [runOp_succ (exec_submit_busy hf nofun nofun), runOp_succ (exec_submit_busy (l := .a5w) (x := x) rfl nofun nofun)]
    rfl
  | read =>
    rw [hdir] at hf
    refine ⟨_, ?_, asyncA5r_starts hdir _⟩
    rw [runOp_succ (exec_submit_busy hf nofun nofun), runOp_succ (exec_submit_busy (l := .a5r) (x := x) rfl nofun nofun)]
    rfl

/-- The handler, the line and the ready event are all of the descriptor's bus. -/
theorem Starts.frame_of_lineReady {op : Instr} (h : Starts op x (s.lineReady op x) u)
    (hbus : Config.busOf s.cfg (Config.pid s.cfg (s.desc x.d).bus) = (s.desc x.d).bus) : u = { s with
      fg := .busy op .a6 x, cache := u.cache, answers := u.answers, drawNo := u.drawNo, hist := u.hist
      ctl := s.ctl.modify (s.desc x.d).bus.toNat
        (fun y => { y with vec := .shared, line := true, inten := y.inten ||| x.dir.readyEvent }) } := by
  have hctl : (s.lineReady op x).ctl.modify (s.desc x.d).bus.toNat (fun y => { y with inten := y.inten ||| x.dir.readyEvent }) =
      s.ctl.modify (s.desc x.d).bus.toNat
        (fun y => { y with vec := .shared, line := true, inten := y.inten ||| x.dir.readyEvent }) := by
    rw [State.lineReady, hbus]
    exact modify_modify _ _ _ _
  rw [← hctl]
  exact h.frame

theorem trace_lineReady (s : State) (op : Instr) (x : Locals) : (s.lineReady op x).trace = s.trace ++
    [.irqSetHandler (Config.pid s.cfg (s.desc x.d).bus), .irqLineEnable (Config.pid s.cfg (s.desc x.d).bus)] :=
  cmdsOf_append _ _

/-- A6 and S9: SUCCESS is returned and the lock is kept (43_async.md R190, 41_dispatch.md R150). -/
theorem runOp_asyncA6 (hf : s.fg = .busy (.submit d rx tx cb args) .a6 x) :
    runOp (.submit d rx tx cb args) 2 s = .next (s.finish .submit (some 0)) := by
  rw [runOp_succ (exec_submit_busy hf nofun nofun),
    runOp_succ (exec_submit_s9_of_success (x := { x with st := .success }) rfl rfl)]
  rfl

end Sys2Proof.Machine
end

section
open Sys2Proof Sys2Proof.Machine

/-- Settles O31: the handler and the line, the start of the direction, and the return, where `bus_of` finds the descriptor's own bus from
its identifier. -/
theorem asyncStart : Obligations.AsyncStart := by
  rintro s _ rx tx cb args x rfl op e p a hw hd hf
  have hbus : Config.busOf s.cfg p = e.bus := busOf_pid hw (descOk_iff.1 hd).1
  obtain ⟨t, hrun, ht⟩ := runOp_start (s := s.lineReady op x) (Config.wf_line hw).1 rfl
  have hframe := ht.frame_of_lineReady hbus
  refine ⟨t.finish .submit (some 0), ?_, congrArg (State.finish · .submit (some 0)) hframe, ht.cpu, ?_⟩
  · rw [runOp_add (runOp_asyncA2 hf) 4, runOp_add hrun 2]
    exact runOp_asyncA6 (congrArg State.fg hframe)
  · rw [trace_finish, ht.trace, trace_lineReady]
    rfl

end

section
/-! The interrupt handler: what each event does to the slot it is matched to, and without one (43_async.md R197 to R206). -/

namespace Sys2Proof.Machine

variable {s : State} {p : Idx} {k : Nat} {y : Slot} {a : Word}

/-! ### The event's slot -/

theorem exec_irqRxrdy_of_lowest (h : s.lowestBound p k y) : exec (.irqRxrdy p) s = .next (rxrdyMatched k s) := by
  rw [exec_irqRxrdy, matchSlot_of_lowest h]

theorem exec_irqTxrdy_of_lowest (h : s.lowestBound p k y) : exec (.irqTxrdy p) s = .next (txrdyMatched k s) := by
  rw [exec_irqTxrdy, matchSlot_of_lowest h]

theorem exec_irqTxcomp_of_lowest (h : s.lowestBound p k y) : exec (.irqTxcomp p) s = .next (txcompMatched p k s) := by
  rw [exec_irqTxcomp, matchSlot_of_lowest h]

theorem exec_irqNone_of_lowest (h : s.lowestBound p k y) : exec (.irqNone p) s = .next s := by
  rw [exec_irqNone, matchSlot_of_lowest h]

/-- Without a slot the four events are one (43_async.md R205). -/
theorem exec_event_of_unbound (h : s.unbound p) {i : Instr}
    (hi : i ∈ [Instr.irqRxrdy p, .irqTxrdy p, .irqTxcomp p, .irqNone p]) : exec i s = .next (unmatchedIrq p s) := by
  have hnone := matchSlot_of_unbound h
  simp only [List.mem_cons, List.not_mem_nil, or_false] at hi
  obtain rfl | rfl | rfl | rfl := hi
  · rw [exec_irqRxrdy, hnone]
  · rw [exec_irqTxrdy, hnone]
  · rw [exec_irqTxcomp, hnone]
  · rw [exec_irqNone, hnone]

/-! ### The transfer's bytes -/

theorem advance_eq (hy : y.ptr = some a) : y.advance = { y with ptr := some (a + 1), transferred := y.transferred + 1 } := by
  rw [Slot.advance, hy]
  rfl

/-- The ready event of a direction is turned off and TXCOMP on (43_async.md R198, R199). -/
theorem endBytes_eq (s : State) (b : Idx) (m : BitVec 3) : (s.emit (.intDisable b m)).emit (.intEnable b evTxcomp) = { s with
    ctl := s.ctl.modify b.toNat (fun z => { z with inten := z.inten &&& ~~~m ||| evTxcomp })
    hist := s.hist ++ [.cmd (.intDisable b m), .cmd (.intEnable b evTxcomp)] } := by
  have hctl : (s.ctl.modify b.toNat (fun z => { z with inten := z.inten &&& ~~~m })).modify b.toNat
      (fun z => { z with inten := z.inten ||| evTxcomp }) =
      s.ctl.modify b.toNat (fun z => { z with inten := z.inten &&& ~~~m ||| evTxcomp }) := modify_modify _ _ _ _
  rw [← hctl, List.append_cons]
  rfl

theorem ite_endBytes (c : Prop) [Decidable c] (s : State) (b : Idx) (m : BitVec 3) :
    (if c then (s.emit (.intDisable b m)).emit (.intEnable b evTxcomp) else s) = { s with
      ctl := if c then s.ctl.modify b.toNat (fun z => { z with inten := z.inten &&& ~~~m ||| evTxcomp }) else s.ctl
      hist := s.hist ++ if c then [.cmd (.intDisable b m), .cmd (.intEnable b evTxcomp)] else [] } := by
  rw [endBytes_eq]
  split
  · rfl
  · rw [List.append_nil]

theorem ite_stop (c : Prop) [Decidable c] (s : State) (b : Idx) :
    (if c then s.emit (.stop b) else s) = { s with hist := s.hist ++ if c then [.cmd (.stop b)] else [] } := by
  split
  · rfl
  · rw [List.append_nil]

/-! ### IRQ_RXRDY -/

/-- Inside the buffer the received byte is stored and the slot moves on; the last byte ends the transfer's bytes, and the byte before it
stops (43_async.md R198). -/
theorem rxrdyMatched_of_inBuffer (hk : s.slots[k]? = some y) (hin : y.inBuffer = true) (hy : y.ptr = some a) :
    rxrdyMatched k s = { (s.askByte y.desc.bus).cpuWrite a s.answerByte with
      slots := s.slots.set k y.advance
      ctl := if y.transferred + 1 = y.size then
          s.ctl.modify y.desc.bus.toNat (fun z => { z with inten := z.inten &&& ~~~evRxrdy ||| evTxcomp }) else s.ctl
      hist := ((s.askByte y.desc.bus).cpuWrite a s.answerByte).hist ++
        (if y.transferred + 1 = y.size then [.cmd (.intDisable y.desc.bus evRxrdy), .cmd (.intEnable y.desc.bus evTxcomp)] else []) ++
        (if y.transferred + 1 = y.size - 1 then [.cmd (.stop y.desc.bus)] else []) } := by
  have hslots : ((s.askByte y.desc.bus).cpuWrite a s.answerByte).slots.modify k Slot.advance = s.slots.set k y.advance :=
    (congrArg (List.modify · k _) (cpuWrite_slots _ _ _)).trans (modify_eq_set hk)
  have hctl : ((s.askByte y.desc.bus).cpuWrite a s.answerByte).ctl = s.ctl := cpuWrite_ctl _ _ _
  simp only [rxrdyMatched, slot_of_getElem? hk, hin, hy, if_true, Option.getD_some]
  rw [← hslots, ← hctl]
  rw [ite_stop, ite_endBytes, State.modifySlot]

/-- Outside the buffer the fault is raised after the byte is read (43_async.md R202). -/
theorem rxrdyMatched_of_outside (hk : s.slots[k]? = some y) (hin : y.inBuffer = false) :
    rxrdyMatched k s = (s.askByte y.desc.bus).raise (.rxOverrun k y.ptr) := by
  simp only [rxrdyMatched, slot_of_getElem? hk, hin, Bool.false_eq_true, if_false]

/-! ### IRQ_TXRDY -/

theorem txrdyMatched_of_all_sent (hk : s.slots[k]? = some y) (hsent : y.transferred = y.size) :
    txrdyMatched k s = ((s.emit (.intDisable y.desc.bus evTxrdy)).emit (.intEnable y.desc.bus evTxcomp)).emit (.stop y.desc.bus) := by
  rw [← slot_of_getElem? hk] at hsent ⊢
  exact if_pos hsent

theorem txrdyMatched_of_byte_left (hk : s.slots[k]? = some y) (hleft : y.transferred ≠ y.size) (hy : y.ptr = some a) :
    txrdyMatched k s = { s.cpuRead a with
      slots := s.slots.set k y.advance
      hist := (s.cpuRead a).hist ++ [.cmd (.writeByte y.desc.bus (s.cpuByte a))] } := by
  have hslots : (s.cpuRead a).slots.modify k Slot.advance = s.slots.set k y.advance :=
    (congrArg (List.modify · k _) (cpuRead_slots _ _)).trans (modify_eq_set hk)
  simp only [txrdyMatched, slot_of_getElem? hk, if_neg hleft, hy]
  rw [← hslots]
  rfl

/-! ### IRQ_TXCOMP -/

/-- A callback's command, and the lock freed where the callback promises it (40_config.md R127). -/
theorem invokeCallback_eq (s : State) (cb : Callback) (d : Idx) (args : Word) : s.invokeCallback cb d args = { s with
    descs := if freesLock cb = true then s.descs.modify d.toNat (fun e => { e with lock := false }) else s.descs
    hist := s.hist ++ (callbackCmds cb d args).map Event.cmd } := by
  cases cb with
  | none => simp [State.invokeCallback, freesLock, callbackCmds]
  | default => rfl
  | user uid rel => cases rel <;> rfl

/-- Without an owner the model's own fault is raised (log 16). -/
theorem txcompMatched_of_no_owner (hk : s.slots[k]? = some y) (ho : y.owner = none) :
    txcompMatched p k s = s.raise (.brokenSlot k) := by
  simp only [txcompMatched, slot_of_getElem? hk, ho]

theorem txcompMatched_of_not_admitted (hk : s.slots[k]? = some y) (ho : y.owner ≠ none)
    (hcb : s.callbackAdmitted y.desc.callback = false) : txcompMatched p k s = s.refuse .callFromCallback := by
  obtain ⟨d, hd⟩ := Option.ne_none_iff_exists'.1 ho
  simp only [txcompMatched, slot_of_getElem? hk, hd, hcb, Bool.false_eq_true, if_false]

/-- The completion's callback, and the lock freed where the callback or the parameter does (43_async.md R200, R206). -/
def State.completed (s : State) (y : Slot) (d : Idx) : State := { s with
  descs := if freesLock y.desc.callback = true ∨ s.cfg.lockRelease = .engineAfterCallback then
      s.descs.modify d.toNat (fun e => { e with lock := false }) else s.descs
  hist := s.hist ++ (callbackCmds y.desc.callback d y.desc.cbArgs).map Event.cmd }

theorem completed_of_engineAfterCallback (h : s.cfg.lockRelease = .engineAfterCallback) (y : Slot) (d : Idx) :
    (s.invokeCallback y.desc.callback d y.desc.cbArgs).unlock d = s.completed y d := by
  rw [unlock_invokeCallback, State.completed, if_pos (.inr h)]

theorem completed_of_callbackOnly (h : s.cfg.lockRelease = .callbackOnly) (y : Slot) (d : Idx) :
    s.invokeCallback y.desc.callback d y.desc.cbArgs = s.completed y d := by
  rw [invokeCallback_eq, State.completed, h]
  simp

/-- The line and the three enables are turned off (43_async.md R200). -/
theorem lineOff_eq (s : State) (p b : Idx) : (s.emit (.irqLineDisable p)).emit (.intDisable b 7#3) = { s with
    ctl := (s.ctl.modify (Config.busOf s.cfg p).toNat (fun z => { z with line := false })).modify b.toNat
      (fun z => { z with inten := 0#3 })
    hist := s.hist ++ [.cmd (.irqLineDisable p), .cmd (.intDisable b 7#3)] } := by
  have hoff (z : Ctl) : { z with inten := z.inten &&& ~~~7#3 } = { z with inten := 0#3 } :=
    congrArg (fun m => { z with inten := m }) BitVec.and_zero
  rw [← funext hoff, List.append_cons]
  rfl

/-- The line and the enables off, the callback, the lock, and the slot free, in this order (43_async.md R200). -/
theorem txcompMatched_of_owner {d : Idx} (hk : s.slots[k]? = some y) (ho : y.owner = some d)
    (hcb : s.callbackAdmitted y.desc.callback = true) : txcompMatched p k s =
      (((s.emit (.irqLineDisable p)).emit (.intDisable y.desc.bus 7#3)).completed y d).modifySlot k
        (fun z => { z with ptr := none, pid := none }) := by
  simp only [txcompMatched, slot_of_getElem? hk, ho, hcb, if_true]
  congr 1
  split
  · rename_i h
    exact completed_of_engineAfterCallback (by simpa using h) y d
  · rename_i h
    exact completed_of_callbackOnly (by simpa using h) y d

end Sys2Proof.Machine
end

section
open Sys2Proof Sys2Proof.Machine

/-- Settles O32: the two cases are inside and outside the buffer. -/
theorem irqRxrdyMatched : Obligations.IrqRxrdyMatched := by
  intro s p k y a hk hy b v n s1 lo hi
  refine ⟨fun hlo hhi => ?_, fun hout => ?_⟩
  · have hin : y.inBuffer = true := by
      simp only [Slot.inBuffer, hy, Bool.and_eq_true, decide_eq_true_eq]
      exact ⟨hlo, hhi⟩
    rw [exec_irqRxrdy_of_lowest hk, rxrdyMatched_of_inBuffer hk.1 hin hy, advance_eq hy]
    rfl
  · have hin : y.inBuffer = false := by
      simp only [Slot.inBuffer, hy, Bool.and_eq_false_iff, decide_eq_false_iff_not, not_le, not_lt]
      exact hout
    rw [exec_irqRxrdy_of_lowest hk, rxrdyMatched_of_outside hk.1 hin, hy]
    rfl

/-- Settles O33: the two cases are all bytes sent and a byte left. -/
theorem irqTxrdyMatched : Obligations.IrqTxrdyMatched := by
  intro s p k y hk b
  refine ⟨fun hsent => ?_, fun a hleft hy => ?_⟩
  · rw [exec_irqTxrdy_of_lowest hk, txrdyMatched_of_all_sent hk.1 hsent, endBytes_eq]
    rw [State.emit, State.record, List.append_assoc]
    rfl
  · rw [exec_irqTxrdy_of_lowest hk, txrdyMatched_of_byte_left hk.1 hleft hy, advance_eq hy]

/-- Settles O34: the cases are the slot's owner and its callback. -/
theorem irqTxcompMatched : Obligations.IrqTxcompMatched := by
  intro s p k y hk b
  refine ⟨fun ho => ?_, fun ho hcb => ?_, fun d ho hcb => ?_⟩
  · rw [exec_irqTxcomp_of_lowest hk, txcompMatched_of_no_owner hk.1 ho]
    rfl
  · rw [exec_irqTxcomp_of_lowest hk, txcompMatched_of_not_admitted hk.1 ho hcb]
    rfl
  · rw [exec_irqTxcomp_of_lowest hk, txcompMatched_of_owner hk.1 ho hcb]
    rw [lineOff_eq, State.modifySlot, State.completed, modify_eq_set hk.1]

/-- Settles O35: a matched event does nothing. -/
theorem irqNoneMatched : Obligations.IrqNoneMatched := fun _ _ _ _ hk => exec_irqNone_of_lowest hk

/-- Settles O36: without a slot each of the four events is the unmatched one. -/
theorem irqUnmatched : Obligations.IrqUnmatched := fun _ _ hu _ hi => (exec_event_of_unbound hu hi).trans rfl

end

section
/-! What one entry of the interrupt handler appends to the history (43_async.md R203). -/

namespace Sys2Proof.Machine

variable {s t u : State} {n : Nat} {cs : List Cmd}

/-! ### The commands and the accesses that are appended -/

/-- From `s` to `t` the history grows by the commands `cs` and `n` accesses of the CPU. -/
def Appends (s t : State) (cs : List Cmd) (n : Nat) : Prop :=
  ∃ es, t.hist = s.hist ++ es ∧ cmdsOf es = cs ∧ (es.filter Event.isCpuAccess).length = n

namespace Appends

theorem refl : Appends s s [] 0 := ⟨[], (List.append_nil _).symm, rfl, rfl⟩

theorem of_hist (h : Appends s u cs n) (ht : t.hist = u.hist) : Appends s t cs n := by
  obtain ⟨es, hes, hcs, hn⟩ := h
  exact ⟨es, ht.trans hes, hcs, hn⟩

theorem append {ds : List Cmd} {m : Nat} {es : List Event} (h : Appends s u cs n) (ht : t.hist = u.hist ++ es)
    (hds : cmdsOf es = ds) (hm : (es.filter Event.isCpuAccess).length = m) : Appends s t (cs ++ ds) (n + m) := by
  obtain ⟨fs, hfs, rfl, rfl⟩ := h
  subst hds hm
  refine ⟨fs ++ es, ?_, cmdsOf_append _ _, ?_⟩
  · rw [ht, hfs, List.append_assoc]
  · rw [List.filter_append, List.length_append]

/-- An event that is no command. -/
theorem event {e : Event} {m : Nat} (h : Appends s u cs n) (ht : t.hist = u.hist ++ [e]) (he : e.cmd? = none)
    (hm : ([e].filter Event.isCpuAccess).length = m) : Appends s t cs (n + m) :=
  List.append_nil cs ▸ h.append ht (List.filterMap_cons_none he) hm

theorem emit (h : Appends s u cs n) (c : Cmd) : Appends s (u.emit c) (cs ++ [c]) n :=
  h.append (emit_hist u c) rfl rfl

theorem invokeCallback (h : Appends s u cs n) (cb : Callback) (d : Idx) (args : Word) :
    Appends s (u.invokeCallback cb d args) (cs ++ callbackCmds cb d args) n := by
  rw [invokeCallback_eq]
  exact h.append (m := 0) rfl (cmdsOf_map_cmd _) (by simp [Event.isCpuAccess])

/-- An allocation appends draws only (20_memory.md R66, R67). -/
theorem allocate (h : Appends s u cs n) (a : Word) : Appends s (u.allocate a) cs n := by
  have hdraw : Appends s u.choose cs n := h.event (choose_hist u) rfl rfl
  unfold State.allocate
  split
  · split <;> exact hdraw
  · exact h

theorem cpuRead (h : Appends s u cs n) (a : Word) : Appends s (u.cpuRead a) cs (n + 1) :=
  (h.allocate a).event (record_hist _ _) rfl rfl

theorem cpuWrite (h : Appends s u cs n) (a : Word) (v : Byte) : Appends s (u.cpuWrite a v) cs (n + 1) :=
  ((h.allocate a).of_hist (store_hist _ a v)).event (record_hist _ _) rfl rfl

end Appends

/-! ### The bounds -/

/-- The bounds on what one handler entry appends (43_async.md R203). -/
def HandlerBound (s t : State) : Prop := ∃ es, t.hist = s.hist ++ es ∧
  ((cmdsOf es).filter (fun c => !c.isCallback)).length ≤ 3 ∧ ((cmdsOf es).filter Cmd.isCallback).length ≤ 1 ∧
  (es.filter Event.isCpuAccess).length ≤ 1 ∧ ∀ c ∈ cmdsOf es, c.isWait = false

/-- A command that is neither a CALLBACK event nor a wait. -/
def Cmd.isPlain (c : Cmd) : Bool := !c.isCallback && !c.isWait

/-- At most three plain commands, then one callback. -/
theorem HandlerBound.of_callback {cb : Callback} {d : Idx} {args : Word} (h : Appends s t (cs ++ callbackCmds cb d args) n)
    (hlen : cs.length ≤ 3) (hplain : cs.all Cmd.isPlain = true) (hn : n ≤ 1) : HandlerBound s t := by
  obtain ⟨es, hes, hcs, rfl⟩ := h
  have hcallback : ∀ c ∈ callbackCmds cb d args, c.isCallback = true ∧ c.isWait = false := by
    cases cb <;> simp [callbackCmds, Cmd.isCallback, Cmd.isWait]
  have hone : (callbackCmds cb d args).length ≤ 1 := by cases cb <;> simp [callbackCmds]
  simp only [List.all_eq_true, Cmd.isPlain, Bool.and_eq_true, Bool.not_eq_true'] at hplain
  have hcommands : (callbackCmds cb d args).filter (fun c => !c.isCallback) = [] :=
    List.filter_eq_nil_iff.2 fun c hc => by simp [(hcallback c hc).1]
  have hcallbacks : cs.filter Cmd.isCallback = [] := List.filter_eq_nil_iff.2 fun c hc => by simp [(hplain c hc).1]
  refine ⟨es, hes, ?_, ?_, hn, fun c hc => ?_⟩
  · rw [hcs, List.filter_append, hcommands, List.append_nil]
    exact (List.length_filter_le _ _).trans hlen
  · rw [hcs, List.filter_append, hcallbacks]
    exact (List.length_filter_le _ _).trans hone
  · rw [hcs] at hc
    exact (List.mem_append.1 hc).elim (fun h => (hplain c h).2) fun h => (hcallback c h).2

theorem HandlerBound.of_cmds (h : Appends s t cs n) (hlen : cs.length ≤ 3) (hplain : cs.all Cmd.isPlain = true)
    (hn : n ≤ 1) : HandlerBound s t :=
  .of_callback (cb := .none) (d := 0) (args := 0) ((List.append_nil cs).symm ▸ h) hlen hplain hn

/-- The last byte is not the byte before the last (43_async.md R198). -/
theorem ne_sub_one (size : Word) : size ≠ size - 1 := by
  bv_omega

theorem rxrdyMatched_bound (k : Nat) (s : State) : HandlerBound s (rxrdyMatched k s) := by
  have hasked (b : Idx) : Appends s (s.askByte b) [.readByte b s.answerByte] 0 := Appends.emit (u := s.consume) .refl _
  simp only [rxrdyMatched]
  split
  · have hstored := ((hasked (s.slot k).desc.bus).cpuWrite ((s.slot k).ptr.getD 0) s.answerByte).of_hist
      (modifySlot_hist _ k Slot.advance)
    split
    · rename_i hsecond
      rw [if_neg (hsecond ▸ (ne_sub_one _).symm)]
      exact .of_cmds (hstored.emit _) (by simp) rfl le_rfl
    · split
      · exact .of_cmds ((hstored.emit _).emit _) (by simp) rfl le_rfl
      · exact .of_cmds hstored (by simp) rfl le_rfl
  · exact .of_cmds (hasked _) (by simp) rfl (by simp)

theorem txrdyMatched_bound (k : Nat) (s : State) : HandlerBound s (txrdyMatched k s) := by
  simp only [txrdyMatched]
  split
  · exact .of_cmds (((Appends.refl.emit _).emit _).emit _) (by simp) rfl (by simp)
  · split
    · exact .of_cmds ((Appends.refl.cpuRead _).emit _) (by simp) rfl le_rfl
    · exact .of_cmds .refl (by simp) rfl (by simp)

theorem txcompMatched_bound (p : Idx) (k : Nat) (s : State) : HandlerBound s (txcompMatched p k s) := by
  simp only [txcompMatched]
  split
  · split
    · have hcalled (d : Idx) := ((Appends.refl (s := s).emit (.irqLineDisable p)).emit
        (.intDisable (s.slot k).desc.bus (evRxrdy ||| evTxrdy ||| evTxcomp))).invokeCallback (s.slot k).desc.callback d
          (s.slot k).desc.cbArgs
      split <;> exact .of_callback (hcalled _) (by simp) rfl (by simp)
    · exact .of_cmds .refl (by simp) rfl (by simp)
  · exact .of_cmds .refl (by simp) rfl (by simp)

theorem unmatchedIrq_bound (p : Idx) (s : State) : HandlerBound s (unmatchedIrq p s) :=
  .of_cmds (Appends.refl.emit _) (by simp) rfl (by simp)

end Sys2Proof.Machine
end

section
open Sys2Proof Sys2Proof.Machine

/-- Settles O37: each event is bounded with its matched slot, and without one. -/
theorem handlerBounded : Obligations.HandlerBounded := by
  intro s p i hi
  suffices h : ∃ t, exec i s = .next t ∧ HandlerBound s t by
    obtain ⟨t, hexec, es, hes, hbounds⟩ := h
    exact ⟨t, es, hexec, hes, hbounds⟩
  cases hm : s.matchSlot p with
  | none => exact ⟨_, exec_event_of_unbound (unbound_of_matchSlot hm) hi, unmatchedIrq_bound p s⟩
  | some k =>
    have hk := lowest_of_matchSlot hm
    simp only [List.mem_cons, List.not_mem_nil, or_false] at hi
    obtain rfl | rfl | rfl | rfl := hi
    · exact ⟨_, exec_irqRxrdy_of_lowest hk, rxrdyMatched_bound k s⟩
    · exact ⟨_, exec_irqTxrdy_of_lowest hk, txrdyMatched_bound k s⟩
    · exact ⟨_, exec_irqTxcomp_of_lowest hk, txcompMatched_bound p k s⟩
    · exact ⟨_, exec_irqNone_of_lowest hk, .of_cmds .refl (by simp) rfl (by simp)⟩

end

section
/-! The set-up of the DMA adapter (44_dma.md R231 to R237): the channel M1 takes, and the micro-steps from there to the return, as one
state for M2 to M5 and one for the start. -/

namespace Sys2Proof.Machine

variable {s u : State} {d c : Idx} {rx tx : Option Buffer} {cb : Callback} {args : Word} {x : Locals}

/-! ### The channel M1 takes -/

theorem answerChan_eq_some (h : s.answerChan = some c) : c.toNat < s.cfg.nDmaCh ∧ (s.chan c).active = false := by
  simp only [State.answerChan] at h
  split at h
  · rename_i hdrawn
    cases h
    exact ⟨Nat.lt_of_le_of_lt (BitVec.toNat_ofNat .. ▸ Nat.mod_le _ _) hdrawn.1, hdrawn.2⟩
  · cases h

/-- The number of an inactive channel is its draw (44_dma.md R231). -/
theorem answerChan_of_inactive (hc : c.toNat < s.cfg.nDmaCh) (ha : (s.chan c).active = false) :
    ({ s with answers := c.toNat :: s.answers } : State).answerChan = some c := by
  have hnum : BitVec.ofNat 8 c.toNat = c := BitVec.ofNat_toNat ..
  simp only [State.answerChan, State.answer, hnum]
  exact if_pos ⟨hc, ha⟩

/-- The number after the last channel's is a draw of NONE (44_dma.md R231). -/
theorem answerChan_of_nDmaCh (s : State) : ({ s with answers := s.cfg.nDmaCh :: s.answers } : State).answerChan = none :=
  if_neg fun h => Nat.lt_irrefl _ h.1

theorem exec_dmaM1 {l l' : Label} (hl : (l, l') ∈ [(Label.mw1, Label.mw2), (.mr1, .mr2)])
    (hf : s.fg = .busy (.submit d rx tx cb args) l x) :
    exec (.submit d rx tx cb args) s = .next (dmaM1 l' (.submit d rx tx cb args) x s) := by
  simp only [List.mem_cons, Prod.mk.injEq, List.not_mem_nil, or_false] at hl
  obtain ⟨rfl, rfl⟩ | ⟨rfl, rfl⟩ := hl <;> exact exec_submit_busy hf nofun nofun

theorem dmaM1_of_some (h : s.answerChan = some c) (next : Label) (op : Instr) : dmaM1 next op x s = { s with
    fg := .busy op next { x with ch := some c }
    answers := s.answers.tail, drawNo := s.drawNo + 1
    chans := s.chans.modify c.toNat (fun y =>
      { y with active := true, desc := x.d, dir := x.dir, moved := 0, cbSet := false, started := false })
    hist := s.hist ++ [.cmd (.dmaAlloc x.dir (some c))] } := by
  rw [dmaM1, h]
  rfl

theorem dmaM1_of_none (h : s.answerChan = none) (next : Label) (op : Instr) : dmaM1 next op x s = { s with
    answers := s.answers.tail, drawNo := s.drawNo + 1
    hist := s.hist ++ [.cmd (.dmaAlloc x.dir none)]
    fault := some (.dmaAlloc x.d x.dir) } := by
  rw [dmaM1, h]
  rfl

/-! ### The clean -/

/-- A clean changes memory and cache, by what they and the parameters are (20_memory.md R70). -/
theorem cleanRange_eq_of_view (hcfg : u.cfg = s.cfg) (hmem : u.mem = s.mem) (hcache : u.cache = s.cache) (a n : Word) :
    u.cleanRange a n = { u with mem := (s.cleanRange a n).mem, cache := (s.cleanRange a n).cache } := by
  unfold State.cleanRange
  rw [hcfg, hmem, hcache]
  split
  · rfl
  · rw [← hcfg, ← hmem, ← hcache]

/-! ### M2 to M5 -/

/-- The state after M2 to M5: the region is the buffer, the channel goes from `src` to `dst` with its callback set, and the region is
clean (44_dma.md R232, R233). -/
def State.dmaSetUp (s : State) (op : Instr) (l : Label) (x : Locals) (src : Word) (sinc : Bool) (dst : Word) (dinc : Bool) :
    State := { s with
  fg := .busy op l x
  descs := s.descs.modify x.d.toNat (fun e => { e with regionAddr := x.buf, regionLen := x.len })
  chans := s.chans.modify x.chan.toNat (fun y =>
    { y with src := src, srcIncr := sinc, dst := dst, dstIncr := dinc, len := x.len, cbSet := true })
  mem := (s.cleanRange x.buf x.len).mem, cache := (s.cleanRange x.buf x.len).cache
  hist := s.hist ++ [.cmd (.dmaConfig x.chan src sinc dst dinc x.len), .cmd (.cacheClean x.buf x.len),
    .cmd (.dmaSetCallback x.chan)] }

theorem dmaM2_bus (next : Label) (op : Instr) (x : Locals) (s : State) :
    ((dmaM2 next op x s).desc x.d).bus = (s.desc x.d).bus :=
  desc_modifyDesc_field s x.d x.d Desc.bus fun _ => rfl

theorem dmaSetUp_bus (s : State) (op : Instr) (l : Label) (x : Locals) (src : Word) (sinc : Bool) (dst : Word) (dinc : Bool) :
    ((s.dmaSetUp op l x src sinc dst dinc).desc x.d).bus = (s.desc x.d).bus := dmaM2_bus l op x s

theorem dmaM4_eq (next : Label) (op : Instr) (x : Locals) (s : State) : dmaM4 next op x s = { s with
    fg := .busy op next x
    mem := (s.cleanRange (s.desc x.d).regionAddr (s.desc x.d).regionLen).mem
    cache := (s.cleanRange (s.desc x.d).regionAddr (s.desc x.d).regionLen).cache
    hist := s.hist ++ [.cmd (.cacheClean (s.desc x.d).regionAddr (s.desc x.d).regionLen)] } := by
  have hclean := cleanRange_eq_of_view (s := s)
    (u := s.record (.cmd (.cacheClean (s.desc x.d).regionAddr (s.desc x.d).regionLen))) rfl rfl rfl
  rw [dmaM4, State.emit, State.perform, hclean]
  rfl

/-- M4 cleans the region M2 wrote (44_dma.md R232, R233, R237). -/
theorem dmaM5_dmaM4_dmaConfig (hd : x.d.toNat < s.descs.length) (op : Instr) (l3 l4 l5 l6 : Label) (src : Word) (sinc : Bool)
    (dst : Word) (dinc : Bool) :
    dmaM5 l6 op x (dmaM4 l5 op x (((dmaM2 l3 op x s).emit (.dmaConfig x.chan src sinc dst dinc x.len)).goto op l4 x)) =
      s.dmaSetUp op l6 x src sinc dst dinc := by
  let u := ((dmaM2 l3 op x s).emit (.dmaConfig x.chan src sinc dst dinc x.len)).goto op l4 x
  have hdesc : u.desc x.d = { s.desc x.d with regionAddr := x.buf, regionLen := x.len } := desc_modifyDesc_same _ hd
  have haddr : (u.desc x.d).regionAddr = x.buf := congrArg Desc.regionAddr hdesc
  have hlen : (u.desc x.d).regionLen = x.len := congrArg Desc.regionLen hdesc
  have hclean := cleanRange_eq_of_view (s := s) (u := u) rfl rfl rfl x.buf x.len
  have hchans : (s.chans.modify x.chan.toNat (fun y =>
      { y with src := src, srcIncr := sinc, dst := dst, dstIncr := dinc, len := x.len })).modify x.chan.toNat
      (fun y => { y with cbSet := true }) = s.chans.modify x.chan.toNat (fun y =>
        { y with src := src, srcIncr := sinc, dst := dst, dstIncr := dinc, len := x.len, cbSet := true }) := modify_modify _ _ _ _
  rw [State.dmaSetUp, ← hchans, List.append_cons s.hist, List.append_cons (s.hist ++ _), dmaM4_eq, haddr, hlen, hclean]
  rfl

theorem runOp_dmaSetUp_write (hd : x.d.toNat < s.descs.length) (hf : s.fg = .busy (.submit d rx tx cb args) .mw2 x) :
    runOp (.submit d rx tx cb args) 4 s = .next (s.dmaSetUp (.submit d rx tx cb args) .mw6 x x.buf true
      (Config.bus s.cfg (s.desc x.d).bus).thr false) := by
  rw [runOp_succ (exec_submit_busy hf nofun nofun), runOp_succ (exec_submit_busy (l := .mw3) (x := x) rfl nofun nofun),
    runOp_succ (exec_submit_busy (l := .mw4) (x := x) rfl nofun nofun),
    runOp_succ (exec_submit_busy (l := .mw5) (x := x) rfl nofun nofun), runOp_zero,
    ← dmaM5_dmaM4_dmaConfig hd _ .mw3 .mw4 .mw5, ← dmaM2_bus .mw3 (.submit d rx tx cb args) x s]
  rfl

theorem runOp_dmaSetUp_read (hd : x.d.toNat < s.descs.length) (hf : s.fg = .busy (.submit d rx tx cb args) .mr2 x) :
    runOp (.submit d rx tx cb args) 4 s = .next (s.dmaSetUp (.submit d rx tx cb args) .mr6 x
      (Config.bus s.cfg (s.desc x.d).bus).rhr false x.buf true) := by
  rw [runOp_succ (exec_submit_busy hf nofun nofun), runOp_succ (exec_submit_busy (l := .mr3) (x := x) rfl nofun nofun),
    runOp_succ (exec_submit_busy (l := .mr4) (x := x) rfl nofun nofun),
    runOp_succ (exec_submit_busy (l := .mr5) (x := x) rfl nofun nofun), runOp_zero,
    ← dmaM5_dmaM4_dmaConfig hd _ .mr3 .mr4 .mr5, ← dmaM2_bus .mr3 (.submit d rx tx cb args) x s]
  rfl

/-! ### The start and the return -/

/-- The return of the engine and S9: SUCCESS is returned and the lock is kept (44_dma.md R236, 41_dispatch.md R150). -/
theorem runOp_dmaReturn {l : Label} (hl : l ∈ [Label.mw7, .mr8]) (hf : s.fg = .busy (.submit d rx tx cb args) l x) :
    runOp (.submit d rx tx cb args) 2 s = .next (s.finish .submit (some 0)) := by
  have hexec : exec (.submit d rx tx cb args) s = .next (dmaReturn (.submit d rx tx cb args) x s) := by
    simp only [List.mem_cons, List.not_mem_nil, or_false] at hl
    obtain rfl | rfl := hl <;> exact exec_submit_busy hf nofun nofun
  rw [runOp_succ hexec, runOp_succ (exec_submit_s9_of_success (x := { x with st := .success }) rfl rfl)]
  rfl

theorem runOp_dmaStart {l : Label} (hl : l ∈ [Label.mw6, .mr7]) (hf : s.fg = .busy (.submit d rx tx cb args) l x) :
    runOp (.submit d rx tx cb args) 3 s = .next ((s.emit (.dmaStart x.chan)).finish .submit (some 0)) := by
  simp only [List.mem_cons, List.not_mem_nil, or_false] at hl
  obtain rfl | rfl := hl
  · rw [runOp_succ (exec_submit_busy hf nofun nofun)]
    exact runOp_dmaReturn (l := .mw7) (x := x) (by decide) rfl
  · rw [runOp_succ (exec_submit_busy hf nofun nofun)]
    exact runOp_dmaReturn (l := .mr8) (x := x) (by decide) rfl

/-! ### The NACK check of a read -/

theorem exec_mr6_of_no_nack (hb : s.answerBit = false) (hf : s.fg = .busy (.submit d rx tx cb args) .mr6 x) :
    exec (.submit d rx tx cb args) s = .next { s with
      fg := .busy (.submit d rx tx cb args) .mr7 x
      answers := s.answers.tail, drawNo := s.drawNo + 1
      hist := s.hist ++ [.cmd (.readNack (s.desc x.d).bus false)] } := by
  rw [exec_submit_busy hf nofun nofun, submitMicro, dmaM6r, State.askNack, hb]
  rfl

/-- A NACK frees the channel, clears the region and goes to S9 with ACK (44_dma.md R234). -/
theorem exec_mr6_of_nack (hb : s.answerBit = true) (hf : s.fg = .busy (.submit d rx tx cb args) .mr6 x) :
    exec (.submit d rx tx cb args) s = .next { s with
      fg := .busy (.submit d rx tx cb args) .s9 { x with st := .ack }
      answers := s.answers.tail, drawNo := s.drawNo + 1
      descs := s.descs.modify x.d.toNat (fun e => { e with regionAddr := 0, regionLen := 0 })
      chans := s.chans.modify x.chan.toNat (fun y => { y with active := false })
      hist := s.hist ++ [.cmd (.readNack (s.desc x.d).bus true)] ++ [.cmd (.dmaFree x.chan)] } := by
  rw [exec_submit_busy hf nofun nofun, submitMicro, dmaM6r, State.askNack, hb]
  rfl

/-- S9 frees the lock of the descriptor whose region a NACK has cleared (44_dma.md R234, 41_dispatch.md R150). -/
theorem runOp_mr6_of_nack (hb : s.answerBit = true) (hf : s.fg = .busy (.submit d rx tx cb args) .mr6 x) :
    runOp (.submit d rx tx cb args) 2 s = .next { s with
      fg := .idle, result := some 2
      answers := s.answers.tail, drawNo := s.drawNo + 1
      descs := s.descs.modify x.d.toNat (fun e => { e with regionAddr := 0, regionLen := 0, lock := false })
      chans := s.chans.modify x.chan.toNat (fun y => { y with active := false })
      hist := s.hist ++ [.cmd (.readNack (s.desc x.d).bus true), .cmd (.dmaFree x.chan), .ret .submit (some 2)] } := by
  have hdescs : (s.descs.modify x.d.toNat (fun e => { e with regionAddr := 0, regionLen := 0 })).modify x.d.toNat
      (fun e => { e with lock := false }) =
      s.descs.modify x.d.toNat (fun e => { e with regionAddr := 0, regionLen := 0, lock := false }) := modify_modify _ _ _ _
  rw [← hdescs, List.append_cons, List.append_cons (s.hist ++ _), runOp_succ (exec_mr6_of_nack hb hf),
    runOp_succ (exec_submit_s9_of_error (x := { x with st := .ack }) rfl nofun)]
  rfl

end Sys2Proof.Machine
end

section
open Sys2Proof Sys2Proof.Machine

/-- Settles O38: M1 splits on the drawn channel, and the draws are the number of an inactive channel and the number after the last. -/
theorem dmaAllocate : Obligations.DmaAllocate := by
  rintro s _ rx tx cb args x l l' rfl op hl hf taken failed
  have htaken (u : State) (c : Idx) (hu : u.fg = s.fg) (hc : u.answerChan = some c) : taken u c :=
    (exec_dmaM1 hl (hu.trans hf)).trans (congrArg _ (dmaM1_of_some hc l' op))
  have hfailed (u : State) (hu : u.fg = s.fg) (hc : u.answerChan = none) : failed u :=
    (exec_dmaM1 hl (hu.trans hf)).trans (congrArg _ (dmaM1_of_none hc l' op))
  refine ⟨?_, fun c hc ha => htaken _ c rfl (answerChan_of_inactive hc ha), hfailed _ rfl (answerChan_of_nDmaCh s)⟩
  cases hc : s.answerChan with
  | none => exact .inr (hfailed s rfl hc)
  | some c => exact .inl ⟨c, (answerChan_eq_some hc).1, (answerChan_eq_some hc).2, htaken s c rfl hc⟩

/-- Settles O39: M2 to M5 set the channel up, and the start and the return follow. -/
theorem dmaWriteSetup : Obligations.DmaWriteSetup := by
  rintro s _ rx tx cb args x c rfl op e thr hd hc hf
  obtain rfl : x.chan = c := by rw [Locals.chan, hc, Option.getD_some]
  have hchans : (s.chans.modify x.chan.toNat (fun y =>
      { y with src := x.buf, srcIncr := true, dst := thr, dstIncr := false, len := x.len, cbSet := true })).modify x.chan.toNat
      (fun y => { y with started := true }) = s.chans.modify x.chan.toNat (fun y =>
        { y with src := x.buf, srcIncr := true, dst := thr, dstIncr := false, len := x.len, cbSet := true, started := true }) :=
    modify_modify _ _ _ _
  rw [runOp_add (runOp_dmaSetUp_write hd hf) 3, runOp_dmaStart (l := .mw6) (x := x) (by decide) rfl, ← hchans]
  simp only [State.dmaSetUp, State.finish, State.record, State.emit, State.perform, State.modifyChan, List.append_assoc]
  rfl

/-- Settles O40: M2 to M5 set the channel up, and M6 splits on the NACK. -/
theorem dmaReadSetup : Obligations.DmaReadSetup := by
  rintro s _ rx tx cb args x c rfl op e rhr s1 cmds hd hc hf
  obtain rfl : x.chan = c := by rw [Locals.chan, hc, Option.getD_some]
  let u := s.dmaSetUp op .mr6 x rhr false x.buf true
  have hsetUp : runOp op 4 s = .next u := runOp_dmaSetUp_read hd hf
  have hbus : (u.desc x.d).bus = e.bus := dmaSetUp_bus s op .mr6 x rhr false x.buf true
  refine ⟨fun hb => ?noNack, fun hb => ?nack⟩
  case noNack =>
    have hchans : u.chans.modify x.chan.toNat (fun y => { y with started := true }) = s.chans.modify x.chan.toNat (fun y =>
        { y with src := rhr, srcIncr := false, dst := x.buf, dstIncr := true, len := x.len, cbSet := true, started := true }) :=
      modify_modify _ _ _ _
    rw [← hchans, List.append_cons (s.hist ++ cmds), List.append_cons (s.hist ++ cmds ++ _), ← hbus, runOp_add hsetUp 4,
      runOp_succ (exec_mr6_of_no_nack (s := u) hb rfl), runOp_dmaStart (l := .mr7) (x := x) (by decide) rfl]
    rfl
  case nack =>
    have hchans : u.chans.modify x.chan.toNat (fun y => { y with active := false }) = s.chans.modify x.chan.toNat (fun y =>
        { y with active := false, src := rhr, srcIncr := false, dst := x.buf, dstIncr := true, len := x.len, cbSet := true }) :=
      modify_modify _ _ _ _
    have hdescs : u.descs.modify x.d.toNat (fun e => { e with regionAddr := 0, regionLen := 0, lock := false }) =
        s.descs.modify x.d.toNat (fun e => { e with regionAddr := 0, regionLen := 0, lock := false }) := modify_modify _ _ _ _
    rw [← hchans, ← hdescs, ← hbus, runOp_add hsetUp 2, runOp_mr6_of_nack (s := u) hb rfl]
    rfl

end

section
/-! The byte step of the DMA engine (44_dma.md R238; 20_memory.md R72): what its read and its write do at a holding register and at any
other address. -/

namespace Sys2Proof.Machine

variable {s : State} {c : Idx} {a : Word} {v : Byte}

/-! ### The holding registers -/

theorem rhrBus?_isSome_iff {cfg : Config} : (Config.rhrBus? cfg a).isSome = true ↔ ∃ b ∈ cfg.buses, b.rhr = a := by
  simp [Config.rhrBus?]

theorem thrBus?_eq_none {cfg : Config} (h : ∀ b ∈ cfg.buses, b.thr ≠ a) : Config.thrBus? cfg a = none := by
  simpa [Config.thrBus?, List.findIdx?_eq_none_iff] using h

/-- The bus whose transmit-holding register alone an address is (20_memory.md R61, R72). -/
theorem thrBus?_eq_some {cfg : Config} {b : Nat} (h : ∀ i z, cfg.buses[i]? = some z → (z.thr = a ↔ i = b))
    (hb : b < cfg.buses.length) : Config.thrBus? cfg a = some (BitVec.ofNat 8 b) := by
  have hfind : cfg.buses.findIdx? (fun z => z.thr == a) = some b := by
    rw [List.findIdx?_eq_some_iff_getElem]
    refine ⟨hb, beq_iff_eq.2 ((h b _ (List.getElem?_eq_getElem hb)).2 rfl), fun i hi hbeq => ?_⟩
    have hlen : i < cfg.buses.length := hi.trans hb
    exact Nat.ne_of_lt hi ((h i _ (List.getElem?_eq_getElem hlen)).1 (beq_iff_eq.1 hbeq))
  rw [Config.thrBus?, hfind, Option.map_some]

/-! ### The accesses -/

/-- At a receive-holding register the DMA engine reads a drawn byte (20_memory.md R72). -/
theorem dmaByte_of_register (h : ∃ b ∈ s.cfg.buses, b.rhr = a) : s.dmaByte a = s.answerByte :=
  if_pos (rhrBus?_isSome_iff.2 h)

theorem dmaRead_of_register (h : ∃ b ∈ s.cfg.buses, b.rhr = a) :
    s.dmaRead a = s.consume.record (.dmaRead a (s.dmaByte a)) := by
  rw [State.dmaRead, if_pos (rhrBus?_isSome_iff.2 h)]

theorem dmaRead_of_memory (h : Config.rhrBus? s.cfg a = none) : s.dmaRead a = s.record (.dmaRead a (s.dmaByte a)) := by
  rw [State.dmaRead, h]
  rfl

@[simp] theorem dmaRead_hist (s : State) (a : Word) : (s.dmaRead a).hist = s.hist ++ [.dmaRead a (s.dmaByte a)] := by
  unfold State.dmaRead
  split <;> rfl

/-- A read of the DMA engine changes the draws and the history. -/
theorem dmaRead_frame (s : State) (a : Word) : s.dmaRead a = { s with
    answers := (s.dmaRead a).answers, drawNo := (s.dmaRead a).drawNo, hist := (s.dmaRead a).hist } := by
  unfold State.dmaRead
  split <;> rfl

theorem dmaWrite_of_register {b : Idx} (h : Config.thrBus? s.cfg a = some b) (v : Byte) :
    s.dmaWrite a v = s.record (.dmaTx b v) := by
  rw [State.dmaWrite, h]

theorem dmaWrite_of_memory (h : Config.thrBus? s.cfg a = none) (v : Byte) :
    s.dmaWrite a v = ({ s with mem := Memory.write s.mem a.toNat v } : State).record (.dmaWrite a v) := by
  rw [State.dmaWrite, h]

/-- A write of the DMA engine changes memory and the history. -/
theorem dmaWrite_frame (s : State) (a : Word) (v : Byte) :
    s.dmaWrite a v = { s with mem := (s.dmaWrite a v).mem, hist := (s.dmaWrite a v).hist } := by
  unfold State.dmaWrite
  split <;> rfl

/-! ### The step -/

theorem running_iff {y : Chan} :
    y.running = true ↔ y.active = true ∧ y.started = true ∧ y.moved.toNat < y.len.toNat := by
  simp [Chan.running, and_assoc]

theorem dmaByteStep_of_running (h : (s.chan c).running = true) : dmaByteStep c s =
    ((s.dmaRead (s.chan c).from).dmaWrite (s.chan c).to (s.dmaByte (s.chan c).from)).modifyChan c
      (fun y => { y with moved := y.moved + 1 }) := if_pos h

theorem dmaByteStep_of_not_running (h : ¬ (s.chan c).running = true) : dmaByteStep c s = s := if_neg h

/-- A byte step changes the draws, memory, the history and its channel's count (44_dma.md R238). -/
theorem dmaByteStep_frame (h : (s.chan c).running = true) :
    let t := dmaByteStep c s
    t = { s with
      answers := t.answers, drawNo := t.drawNo, hist := t.hist, mem := t.mem
      chans := s.chans.modify c.toNat (fun y => { y with moved := y.moved + 1 }) } := by
  intro t
  have ht : t = ((s.dmaRead (s.chan c).from).dmaWrite (s.chan c).to (s.dmaByte (s.chan c).from)).modifyChan c
      (fun y => { y with moved := y.moved + 1 }) := dmaByteStep_of_running h
  rw [ht, dmaWrite_frame, dmaRead_frame]
  rfl

theorem step_of_dmaByte {more : List Input} (hf : s.fault = none) (hr : s.refused = none) (hi : s.inputs = .dmaByte c :: more) :
    step s = .next (dmaByteStep c { s with inputs := more }) := by
  simp [step, hf, hr, hi, State.popInput]

end Sys2Proof.Machine
end

section
open Sys2Proof Sys2Proof.Machine

/-- Settles O41: the byte step is a read and a write of the DMA engine, each by whether its address is a holding register. -/
theorem dmaByteMoves : Obligations.DmaByteMoves := by
  intro s c more hf hr hi y src dst fromBus running
  let u : State := { s with inputs := more }
  have hstep : step s = .next (dmaByteStep c u) := step_of_dmaByte hf hr hi
  refine ⟨fun hn => hstep.trans (congrArg _ (dmaByteStep_of_not_running (mt running_iff.1 hn))), fun hrun => ?_⟩
  have hrunning : (u.chan c).running = true := running_iff.2 hrun
  have ht : dmaByteStep c u = ((u.dmaRead src).dmaWrite dst (u.dmaByte src)).modifyChan c
      (fun y => { y with moved := y.moved + 1 }) := dmaByteStep_of_running hrunning
  have hanswers : (dmaByteStep c u).answers = (u.dmaRead src).answers := by simp [ht]
  have hdraws : (dmaByteStep c u).drawNo = (u.dmaRead src).drawNo := by simp [ht]
  refine ⟨dmaByteStep c u, u.dmaByte src, hstep, fun hmem => ?sourceMemory, fun hbus => ?sourceRegister,
    dmaByteStep_frame hrunning, fun hmem => ?destMemory, fun b _ hb hlt => ?destRegister⟩
  case sourceMemory =>
    have hbus : Config.rhrBus? u.cfg src = none := rhrBus?_eq_none fun b hb hsrc => hmem ⟨b, hb, hsrc⟩
    rw [hanswers, hdraws, dmaRead_of_memory hbus]
    exact ⟨dmaByte_of_memory hbus, rfl, rfl⟩
  case sourceRegister =>
    rw [hanswers, hdraws, dmaRead_of_register (s := u) hbus]
    exact ⟨dmaByte_of_register (s := u) hbus, rfl, rfl⟩
  case destMemory =>
    have hbus : Config.thrBus? (u.dmaRead src).cfg dst = none := (dmaRead_cfg u src).symm ▸ thrBus?_eq_none hmem
    simp [ht, dmaWrite_of_memory hbus, u]
  case destRegister =>
    have hbus : Config.thrBus? (u.dmaRead src).cfg dst = some (BitVec.ofNat 8 b) :=
      (dmaRead_cfg u src).symm ▸ thrBus?_eq_some hb hlt
    simp [ht, dmaWrite_of_register hbus, u]

end

section
/-! The completion of a DMA transfer (44_dma.md R240): the invalidate of a read, then the callback, the channel and the lock. -/

namespace Sys2Proof.Machine

variable {s u : State} {c d : Idx} {cb : Callback} {args : Word}

/-- An invalidate changes the cache, by what it and the parameters are (20_memory.md R71). -/
theorem invalidateRange_eq_of_view (hcfg : u.cfg = s.cfg) (hcache : u.cache = s.cache) (a n : Word) :
    u.invalidateRange a n = { u with cache := (s.invalidateRange a n).cache } := by
  unfold State.invalidateRange
  rw [hcfg, hcache]
  split
  · rfl
  · rw [← hcfg, ← hcache]

theorem emit_cacheInvalidate (s : State) (a n : Word) : s.emit (.cacheInvalidate a n) = { s with
    cache := (s.invalidateRange a n).cache, hist := s.hist ++ [.cmd (.cacheInvalidate a n)] } :=
  invalidateRange_eq_of_view (s := s) (u := s.record (.cmd (.cacheInvalidate a n))) rfl rfl a n

/-- The state after the callback of a completion, with the channel freed, the region cleared and the lock freed where the callback or the
parameter does (44_dma.md R240). -/
def State.channelFreed (s : State) (c d : Idx) (cb : Callback) (args : Word) : State := { s with
  descs := s.descs.modify d.toNat (fun z => { z with
    regionAddr := 0, regionLen := 0
    lock := if freesLock cb = true ∨ s.cfg.lockRelease = .engineAfterCallback then false else z.lock })
  chans := s.chans.modify c.toNat (fun z => { z with active := false })
  hist := s.hist ++ (callbackCmds cb d args).map Event.cmd ++ [.cmd (.dmaFree c)] }

theorem channelFreed_of_engineAfterCallback (h : s.cfg.lockRelease = .engineAfterCallback) :
    (((s.invokeCallback cb d args).emit (.dmaFree c)).unlock d).modifyDesc d
      (fun z => { z with regionAddr := 0, regionLen := 0 }) = s.channelFreed c d cb args := by
  have hdescs : (s.descs.modify d.toNat (fun z => { z with lock := false })).modify d.toNat
      (fun z => { z with regionAddr := 0, regionLen := 0 }) = (s.channelFreed c d cb args).descs := by
    rw [modify_modify, State.channelFreed, h]
    simp [Function.comp_def]
  have hfree : ((s.invokeCallback cb d args).emit (.dmaFree c)).unlock d =
    ((s.invokeCallback cb d args).unlock d).emit (.dmaFree c) := rfl
  rw [hfree, unlock_invokeCallback]
  exact congrArg (fun l => { s.channelFreed c d cb args with descs := l }) hdescs

theorem channelFreed_of_callbackOnly (h : s.cfg.lockRelease = .callbackOnly) :
    ((s.invokeCallback cb d args).emit (.dmaFree c)).modifyDesc d
      (fun z => { z with regionAddr := 0, regionLen := 0 }) = s.channelFreed c d cb args := by
  have hdescs : (if freesLock cb = true then s.descs.modify d.toNat (fun z => { z with lock := false }) else s.descs).modify d.toNat
      (fun z => { z with regionAddr := 0, regionLen := 0 }) = (s.channelFreed c d cb args).descs := by
    rw [State.channelFreed, h]
    split
    · rw [modify_modify]
      simp [Function.comp_def, *]
    · simp [*]
  rw [invokeCallback_eq]
  exact congrArg (fun l => { s.channelFreed c d cb args with descs := l }) hdescs

/-- A completion whose callback is admitted, by the direction of its channel (44_dma.md R240). -/
theorem doneStep_of_admitted (h : s.callbackAdmitted (s.desc (s.chan c).desc).callback = true) : doneStep c s =
    (if (s.chan c).dir = .read then
        s.emit (.cacheInvalidate (s.desc (s.chan c).desc).regionAddr (s.desc (s.chan c).desc).regionLen)
      else s).channelFreed c (s.chan c).desc (s.desc (s.chan c).desc).callback (s.desc (s.chan c).desc).cbArgs := by
  simp only [doneStep, h, if_true]
  cases (s.chan c).dir with
  | read =>
    cases hrel : s.cfg.lockRelease with
    | callbackOnly => exact channelFreed_of_callbackOnly ((congrArg Config.lockRelease (emit_cfg s _)).trans hrel)
    | engineAfterCallback => exact channelFreed_of_engineAfterCallback ((congrArg Config.lockRelease (emit_cfg s _)).trans hrel)
  | write =>
    cases hrel : s.cfg.lockRelease with
    | callbackOnly => exact channelFreed_of_callbackOnly hrel
    | engineAfterCallback => exact channelFreed_of_engineAfterCallback hrel

theorem doneStep_of_not_admitted (h : s.callbackAdmitted (s.desc (s.chan c).desc).callback = false) :
    doneStep c s = s.refuse .callFromCallback := if_neg (Bool.eq_false_iff.1 h)

end Sys2Proof.Machine
end

section
open Sys2Proof Sys2Proof.Machine

/-- Settles O42: a completion splits on its callback and on the direction of its channel. -/
theorem dmaDoneCompletes : Obligations.DmaDoneCompletes := by
  intro s c y d e
  refine ⟨fun hcb => congrArg _ (doneStep_of_not_admitted hcb), fun hcb => ?_⟩
  rw [exec_dmaDone, doneStep_of_admitted hcb]
  by_cases hdir : y.dir = .read
  · rw [if_pos hdir, if_pos hdir, if_pos hdir, emit_cacheInvalidate]
    rfl
  · rw [if_neg hdir, if_neg hdir, if_neg hdir, List.append_nil]
    rfl

end

section
/-! What the DMA and FIFO adapters emit (44_dma.md R235, 45_fifo.md R264): the commands of each of their micro-steps, by the trace. -/

namespace Sys2Proof.Machine

variable {p : Cmd → Bool} {s u t : State}

/-! ### Steps that emit no command of a kind -/

/-- From `s` to `t` no command that `p` holds of is emitted. -/
def Avoids (p : Cmd → Bool) (s t : State) : Prop := ∃ cs, t.trace = s.trace ++ cs ∧ ∀ c ∈ cs, p c = false

namespace Avoids

theorem of_trace_eq (h : t.trace = s.trace) : Avoids p s t := ⟨[], h.trans (List.append_nil _).symm, nofun⟩

theorem congr (h : Avoids p s u) (ht : t.trace = u.trace) : Avoids p s t := by
  obtain ⟨cs, hcs, hp⟩ := h
  exact ⟨cs, ht.trans hcs, hp⟩

theorem goto (h : Avoids p s u) (op : Instr) (l : Label) (x : Locals) : Avoids p s (u.goto op l x) := h.congr rfl

theorem append {cs : List Cmd} (h : Avoids p s u) (ht : t.trace = u.trace ++ cs) (hp : ∀ c ∈ cs, p c = false) : Avoids p s t := by
  obtain ⟨cs', hcs, hp'⟩ := h
  refine ⟨cs' ++ cs, ?_, fun c hc => (List.mem_append.1 hc).elim (hp' c) (hp c)⟩
  rw [ht, hcs, List.append_assoc]

theorem emit (h : Avoids p s u) {c : Cmd} (hc : p c = false) : Avoids p s (u.emit c) :=
  h.append (trace_emit u c) fun _ hd => List.mem_singleton.1 hd ▸ hc

theorem invokeCallback (h : Avoids p s u) (hp : ∀ k uid d args, p (.callback k uid d args) = false) (cb : Callback) (d : Idx)
    (args : Word) : Avoids p s (u.invokeCallback cb d args) := by
  unfold State.invokeCallback
  split
  · exact h
  · exact (h.emit (hp _ _ _ _)).congr rfl
  · split
    · exact (h.emit (hp _ _ _ _)).congr rfl
    · exact h.emit (hp _ _ _ _)

/-- The commands of the history that is appended are those of the trace. -/
theorem hist {es : List Event} (h : Avoids p s t) (hes : t.hist = s.hist ++ es) : ∀ c ∈ cmdsOf es, p c = false := by
  obtain ⟨cs, hcs, hp⟩ := h
  have htrace : t.trace = s.trace ++ cmdsOf es := by rw [State.trace, hes, cmdsOf_append]; rfl
  rwa [← List.append_cancel_left (htrace.symm.trans hcs)] at hp

end Avoids

/-! ### The streaming accesses -/

@[simp] theorem trace_drawByte (s : State) : s.drawByte.trace = s.trace := trace_record_of_no_cmd rfl s.consume

theorem trace_fifoReads (n : Nat) (a : Word) (s : State) : (fifoReads n a s).trace = s.trace := by
  induction n generalizing a s with
  | zero => rfl
  | succ n ih => exact (ih _ _).trans (trace_cpuRead s a)

theorem trace_fifoDraws (n : Nat) (s : State) : (fifoDraws n s).2.trace = s.trace := by
  induction n generalizing s with
  | zero => rfl
  | succ n ih => exact (ih _).trans (trace_drawByte s)

theorem trace_fifoWrites (vs : List Byte) (a : Word) (s : State) : (fifoWrites vs a s).trace = s.trace := by
  induction vs generalizing a s with
  | nil => rfl
  | cons v vs ih => exact (ih _ _).trans (trace_cpuWrite s a v)

theorem trace_fifoReplaces (n : Nat) (a : Word) (s : State) : (fifoReplaces n a s).trace = s.trace := by
  induction n generalizing a s with
  | zero => rfl
  | succ n ih =>
    refine (ih _ _).trans ?_
    split
    · rw [trace_cpuWrite, trace_drawByte, trace_choose]
    · exact trace_choose s

theorem trace_fifoStores (ok : Bool) (n : Nat) (a : Word) (s : State) : (fifoStores ok n a s).trace = s.trace := by
  unfold fifoStores
  split
  · exact (trace_fifoWrites _ _ _).trans (trace_fifoDraws n s)
  · exact trace_fifoReplaces n a s

/-! ### The micro-steps of the two adapters -/

/-- The micro-steps of the DMA adapter (44_dma.md R232, R233). -/
def dmaLabels : List Label := [.mw1, .mw2, .mw3, .mw4, .mw5, .mw6, .mw7, .mr1, .mr2, .mr3, .mr4, .mr5, .mr6, .mr7, .mr8]

/-- The micro-steps of the FIFO adapter (45_fifo.md R260). -/
def fifoLabels : List Label := [.f1, .f2, .f3, .f4]

section Adapter
variable (op : Instr) (x : Locals) (s : State)

theorem dmaM1_avoids (next : Label) : Avoids Cmd.isBus s (dmaM1 next op x s) := by
  have hasked : Avoids Cmd.isBus s (s.consume.emit (.dmaAlloc x.dir s.answerChan)) := .emit (.of_trace_eq rfl) rfl
  unfold dmaM1
  split <;> exact hasked.congr rfl

theorem dmaM6r_avoids : Avoids Cmd.isBus s (dmaM6r op x s) := by
  have hasked : Avoids Cmd.isBus s (s.askNack (s.busOfDesc x.d)) := .emit (.of_trace_eq rfl) rfl
  unfold dmaM6r
  split
  · exact (hasked.emit (c := .dmaFree x.chan) rfl).congr rfl
  · exact hasked.goto _ _ _

theorem fifoF1_avoids : Avoids Cmd.isAsyncOrDma s (fifoF1 op x s) := by
  simp only [fifoF1]
  split
  · have hread : Avoids Cmd.isAsyncOrDma s (fifoReads x.len.toNat x.buf s).consume :=
      .of_trace_eq (trace_fifoReads x.len.toNat x.buf s)
    exact (hread.emit rfl).goto _ _ _
  · have hdrawn : Avoids Cmd.isAsyncOrDma s s.consume := .of_trace_eq rfl
    exact ((hdrawn.emit rfl).congr (trace_fifoStores _ _ _ _)).goto _ _ _

theorem fifoF2_avoids : Avoids Cmd.isAsyncOrDma s (fifoF2 op x s) := by
  unfold fifoF2
  split
  · exact .of_trace_eq rfl
  · exact .of_trace_eq (trace_choose s)

theorem transferComplete_avoids (ready : Label) : Avoids Cmd.isAsyncOrDma s (transferComplete ready op x s) := by
  have hasked : Avoids Cmd.isAsyncOrDma s (s.askTxcomp (s.busOfDesc x.d) (s.desc x.d).timeout) := .emit (.of_trace_eq rfl) rfl
  unfold transferComplete
  split <;> exact hasked.goto _ _ _

theorem completeSync_avoids : Avoids Cmd.isAsyncOrDma s (completeSync op x s) := by
  unfold completeSync
  split
  · exact Avoids.congr (.invokeCallback (.of_trace_eq rfl) (fun _ _ _ _ => rfl) _ _ _) rfl
  · exact .of_trace_eq rfl

/-- A micro-step of the DMA adapter emits no start, stop, wait or interrupt enable (44_dma.md R235). -/
theorem submitMicro_avoids_bus (rx tx : Option Buffer) (cb : Callback) (args : Word) {l : Label} (hl : l ∈ dmaLabels) :
    Avoids Cmd.isBus s (submitMicro rx tx cb args op x s l) := by
  have command {c : Cmd} {next : Label} (hc : c.isBus = false) : Avoids Cmd.isBus s ((s.emit c).goto op next x) :=
    (Avoids.emit (.of_trace_eq rfl) hc).goto _ _ _
  cases l with
  | mw1 | mr1 => exact dmaM1_avoids op x s _
  | mw2 | mr2 | mw7 | mr8 => exact .of_trace_eq rfl
  | mw3 | mr3 | mw4 | mr4 | mw5 | mr5 | mw6 | mr7 => exact command rfl
  | mr6 => exact dmaM6r_avoids op x s
  | _ => simp [dmaLabels] at hl

/-- A micro-step of the FIFO adapter emits no command of the interrupt, DMA and cache interfaces (45_fifo.md R264). -/
theorem submitMicro_avoids_asyncOrDma (rx tx : Option Buffer) (cb : Callback) (args : Word) {l : Label} (hl : l ∈ fifoLabels) :
    Avoids Cmd.isAsyncOrDma s (submitMicro rx tx cb args op x s l) := by
  cases l with
  | f1 => exact fifoF1_avoids op x s
  | f2 => exact fifoF2_avoids op x s
  | f3 => exact transferComplete_avoids op x s _
  | f4 => exact completeSync_avoids op x s
  | _ => simp [fifoLabels] at hl

end Adapter

/-- A micro-step outside the region's labels keeps every descriptor's region (41_dispatch.md R140). -/
theorem Label.Frames.map_region {l : Label} {d : Idx} (h : l.Frames d s t) (hl : l ∉ [Label.mw2, .mr2, .mr6]) :
    t.descs.map (fun e => (e.regionAddr, e.regionLen)) = s.descs.map (fun e => (e.regionAddr, e.regionLen)) := by
  obtain ⟨f, hf, hdescs⟩ := h.descs
  have hregion (e : Desc) : ((f e).regionAddr, (f e).regionLen) = (e.regionAddr, e.regionLen) :=
    Prod.ext ((hf e).region hl).1 ((hf e).region hl).2
  rw [hdescs]
  apply List.ext_getElem?
  intro i
  rw [List.getElem?_map, List.getElem?_map, List.getElem?_modify]
  cases s.descs[i]? with
  | none => simp
  | some e => split <;> simp [hregion]

end Sys2Proof.Machine
end

section
open Sys2Proof Sys2Proof.Machine

/-- Settles O47: the tables by the parts and the frame of the adapters' labels, the commands by their traces. -/
theorem adapterFrames : Obligations.AdapterFrames := by
  intro s t d rx tx cb args x l op hf h
  obtain rfl := eq_submitMicro_of_exec hf h
  have hw : WritesOnly (fun w => w = .fg ∨ l.parts x w) s (submitMicro rx tx cb args op x s l) :=
    submitMicro_writesOnly .refl (.inl rfl) op x rx tx cb args l fun _ => .inr
  have hframe := submitMicro_frames (s := s) op x rx tx cb args l
  have hslots (hl : l ≠ .a1) := hw.slots_eq (not_or.2 ⟨nofun, mt label_of_slots hl⟩)
  have hrr (hl : l ≠ .a1) := hw.rr_eq (not_or.2 ⟨nofun, mt label_of_rr hl⟩)
  obtain ⟨es, hes⟩ := hw.hist_grows
  refine ⟨fun hl => ?dma, fun hl => ?fifo⟩
  case dma =>
    have hne : l ≠ .a1 := by rintro rfl; simp at hl
    have hctl : l ∉ [Label.a2, .a3, .a5w, .a4r, .c2] :=
      (by decide : ∀ l ∈ dmaLabels, l ∉ [Label.a2, .a3, .a5w, .a4r, .c2]) l hl
    exact ⟨hslots hne, hrr hne, hframe.ctl hctl, es, hes, (submitMicro_avoids_bus op x s rx tx cb args hl).hist hes⟩
  case fifo =>
    have hne : l ≠ .a1 := by rintro rfl; simp at hl
    have hregion : l ∉ [Label.mw2, .mr2, .mr6] := (by decide : ∀ l ∈ fifoLabels, l ∉ [Label.mw2, .mr2, .mr6]) l hl
    have hchans : ¬ l.parts x .chans := by cases l <;> simp [Label.parts] at hl ⊢
    exact ⟨hslots hne, hrr hne, hw.chans_eq (not_or.2 ⟨nofun, hchans⟩), hframe.map_region hregion, es, hes,
      (submitMicro_avoids_asyncOrDma op x s rx tx cb args hl).hist hes⟩

end

section
/-! The streaming commands of the FIFO adapter: what `FIFO_WRITE` reads and what `FIFO_READ` stores, byte by byte (45_fifo.md R261), and the
return after a failure (R263). -/

namespace Sys2Proof.Machine

variable {s t u : State} {n : Nat} {b : Word}

/-! ### What is appended to the history -/

/-- The accesses of the CPU in the history, in order. -/
def State.cpuAccesses (s : State) : List Event := s.hist.filter Event.isCpuAccess

@[simp] theorem cpuAccesses_record (s : State) (e : Event) :
    (s.record e).cpuAccesses = s.cpuAccesses ++ if e.isCpuAccess then [e] else [] := by
  simp only [State.cpuAccesses, record_hist, List.filter_append, List.filter_cons, List.filter_nil]

theorem cpuAccesses_of_hist (h : t.hist = s.hist) : t.cpuAccesses = s.cpuAccesses := congrArg (List.filter Event.isCpuAccess) h

theorem cpuAccesses_choose (s : State) : s.choose.cpuAccesses = s.cpuAccesses :=
  (cpuAccesses_record s.consume _).trans (List.append_nil _)

theorem cpuAccesses_drawByte (s : State) : s.drawByte.cpuAccesses = s.cpuAccesses :=
  (cpuAccesses_record s.consume _).trans (List.append_nil _)

theorem cpuAccesses_emit (s : State) (c : Cmd) : (s.emit c).cpuAccesses = s.cpuAccesses :=
  (cpuAccesses_of_hist (perform_hist _ c)).trans ((cpuAccesses_record s _).trans (List.append_nil _))

theorem cpuAccesses_allocate (s : State) (a : Word) : (s.allocate a).cpuAccesses = s.cpuAccesses := by
  unfold State.allocate
  split
  · split <;> exact cpuAccesses_choose s
  · rfl

theorem cpuAccesses_cpuRead (s : State) (a : Word) :
    (s.cpuRead a).cpuAccesses = s.cpuAccesses ++ [.cpuRead a (s.cpuByte a)] := by
  rw [State.cpuRead, cpuAccesses_record, cpuAccesses_allocate]
  rfl

theorem cpuAccesses_cpuWrite (s : State) (a : Word) (v : Byte) :
    (s.cpuWrite a v).cpuAccesses = s.cpuAccesses ++ [.cpuWrite a v] := by
  rw [State.cpuWrite, cpuAccesses_record, cpuAccesses_of_hist (store_hist _ a v), cpuAccesses_allocate]
  rfl

/-- The commands that are appended are those the trace grows by. -/
theorem cmdsOf_appended {es : List Event} {cs : List Cmd} (hes : t.hist = s.hist ++ es) (h : t.trace = s.trace ++ cs) :
    cmdsOf es = cs := by
  rw [State.trace, hes, cmdsOf_append] at h
  exact List.append_cancel_left h

/-- The accesses that are appended are those the accesses of the history grow by. -/
theorem accesses_appended {es as : List Event} (hes : t.hist = s.hist ++ es) (h : t.cpuAccesses = s.cpuAccesses ++ as) :
    es.filter Event.isCpuAccess = as := by
  rw [State.cpuAccesses, hes, List.filter_append] at h
  exact List.append_cancel_left h

/-! ### The addresses of a buffer -/

/-- The addresses after the first of a buffer are those of the buffer one further. -/
theorem add_one_add_ofNat (b : Word) (k : Nat) : b + 1 + BitVec.ofNat 32 k = b + BitVec.ofNat 32 (k + 1) := by
  rw [BitVec.add_assoc, BitVec.ofNat_add, BitVec.add_comm 1]
  rfl

theorem toNat_add_ofNat {k : Nat} (h : b.toNat + k < 2 ^ 32) : (b + BitVec.ofNat 32 k).toNat = b.toNat + k := by
  rw [BitVec.toNat_add, BitVec.toNat_ofNat, Nat.add_mod_mod, Nat.mod_eq_of_lt h]

/-- No later byte of a buffer is at its first address. -/
theorem ne_add_one_add_ofNat {k : Nat} (h : k + 1 < 2 ^ 32) : b ≠ b + 1 + BitVec.ofNat 32 k := by
  rw [add_one_add_ofNat]
  intro heq
  have hzero : BitVec.ofNat 32 (k + 1) = 0#32 := left_eq_add.1 heq
  have hmod := congrArg BitVec.toNat hzero
  rw [BitVec.toNat_ofNat, Nat.mod_eq_of_lt h] at hmod
  exact k.succ_ne_zero hmod

/-- An address outside a buffer is none of its addresses. -/
theorem ne_add_ofNat_of_outside {a : Word} {k : Nat} (hb : b.toNat + n ≤ 2 ^ 32)
    (ha : ¬ (b.toNat ≤ a.toNat ∧ a.toNat < b.toNat + n)) (hk : k < n) : a ≠ b + BitVec.ofNat 32 k := by
  rintro rfl
  rw [toNat_add_ofNat (by omega)] at ha
  omega

/-- A list's entries, by their indices. -/
theorem map_range_getD {α β : Type} (l : List α) (d : α) (f : α → β) :
    (List.range l.length).map (fun k => f (l.getD k d)) = l.map f :=
  List.ext_getElem (by simp) fun k _ hk => by simp [List.getElem?_eq_getElem (List.length_map f ▸ hk)]

/-! ### The reads of FIFO_WRITE -/

/-- The reads change no byte the CPU sees (20_memory.md R66). -/
theorem agrees_fifoReads (h0 : 0 < s.cfg.cacheLine) (n : Nat) (b : Word) : s.Agrees (fifoReads n b s) := by
  induction n generalizing b s with
  | zero => exact .refl
  | succ n ih =>
    have hread : s.Agrees (s.cpuRead b) := State.Agrees.refl.cpuRead h0 b
    exact hread.trans (ih (hread.cfg ▸ h0) _)

/-- The bytes are read in order, each as the CPU sees it (45_fifo.md R261). -/
theorem cpuAccesses_fifoReads (h0 : 0 < s.cfg.cacheLine) (n : Nat) (b : Word) :
    (fifoReads n b s).cpuAccesses = s.cpuAccesses ++ (List.range n).map (fun k =>
      .cpuRead (b + BitVec.ofNat 32 k) (s.cpuByte (b + BitVec.ofNat 32 k))) := by
  induction n generalizing b s with
  | zero => exact (List.append_nil _).symm
  | succ n ih =>
    have hread : s.Agrees (s.cpuRead b) := State.Agrees.refl.cpuRead h0 b
    rw [fifoReads, ih (hread.cfg ▸ h0), cpuAccesses_cpuRead, hread.cpu, List.range_succ_eq_map]
    simp only [add_one_add_ofNat]
    simp

/-! ### The stores of FIFO_READ -/

/-- The CPU stores `w` at `b`, or, where there is none, nothing; it sees every other byte as before. -/
structure State.MayStore (s : State) (b : Word) (w : Option Byte) (u : State) : Prop extends s.Keeps u where
  accesses : u.cpuAccesses = s.cpuAccesses ++ (w.map (Event.cpuWrite b)).toList
  cpu_same : u.cpuByte b = w.getD (s.cpuByte b)
  cpu_ne {a : Word} (h : a ≠ b) : u.cpuByte a = s.cpuByte a

/-- At the `n` addresses from `b` up, one after another, the CPU stores `v k` at the `k`-th or nothing. -/
inductive StoreRun : Word → Nat → (Nat → Option Byte) → State → State → Prop
  | zero {b : Word} {v : Nat → Option Byte} {s : State} : StoreRun b 0 v s s
  | succ {b : Word} {n : Nat} {v : Nat → Option Byte} {s u t : State} (first : s.MayStore b (v 0) u)
      (rest : StoreRun (b + 1) n (fun k => v (k + 1)) u t) : StoreRun b (n + 1) v s t

/-- The CPU's own store (20_memory.md R67). -/
theorem State.Agrees.mayStore (h : s.Agrees u) (hacc : u.cpuAccesses = s.cpuAccesses) (h0 : 0 < s.cfg.cacheLine) (hs : s.memOk)
    (b : Word) (v : Byte) : s.MayStore b (some v) (u.cpuWrite b v) := by
  have hstore : s.Stores b v (u.cpuWrite b v) := h.cpuWrite h0 hs b v
  refine ⟨hstore.toKeeps, ?_, (hstore.cpu b).trans (if_pos rfl), fun hne => (hstore.cpu _).trans (if_neg hne)⟩
  rw [cpuAccesses_cpuWrite, hacc]
  rfl

/-- A byte of a failed FIFO_READ is kept or stored (45_fifo.md R261). -/
theorem exists_mayStore_replace (h0 : 0 < s.cfg.cacheLine) (hs : s.memOk) (b : Word) : ∃ w, s.MayStore b w
    (if s.answerBit then s.choose.drawByte.cpuWrite b s.choose.answerByte else s.choose) := by
  split
  · have hdrawn : s.Agrees s.choose.drawByte := ⟨⟨rfl, rfl, id⟩, rfl⟩
    exact ⟨_, hdrawn.mayStore ((cpuAccesses_drawByte _).trans (cpuAccesses_choose s)) h0 hs b _⟩
  · exact ⟨none, ⟨rfl, rfl, id⟩, (cpuAccesses_choose s).trans (List.append_nil _).symm, rfl, fun _ => rfl⟩

theorem storeRun_fifoWrites (h0 : 0 < s.cfg.cacheLine) (hs : s.memOk) (vs : List Byte) (b : Word) :
    StoreRun b vs.length (fun k => some (vs.getD k 0)) s (fifoWrites vs b s) := by
  induction vs generalizing b s with
  | nil => exact .zero
  | cons v vs ih =>
    have hstore := State.Agrees.refl.mayStore rfl h0 hs b v
    exact .succ hstore (ih (hstore.cfg ▸ h0) (hstore.memOk hs) _)

theorem exists_storeRun_fifoReplaces (h0 : 0 < s.cfg.cacheLine) (hs : s.memOk) (n : Nat) (b : Word) :
    ∃ ws : List (Option Byte), StoreRun b n (fun k => ws.getD k none) s (fifoReplaces n b s) := by
  induction n generalizing b s with
  | zero => exact ⟨[], .zero⟩
  | succ n ih =>
    obtain ⟨w, hbyte⟩ := exists_mayStore_replace h0 hs b
    obtain ⟨ws, hrest⟩ := ih (hbyte.cfg ▸ h0) (hbyte.memOk hs) (b + 1)
    exact ⟨w :: ws, .succ hbyte hrest⟩

/-- After a success the received bytes are drawn, all of them, before the first is stored (45_fifo.md R261). -/
theorem exists_storeRun_fifoStores_of_success (h0 : 0 < s.cfg.cacheLine) (hs : s.memOk) (n : Nat) (b : Word) :
    ∃ (vs : List Byte) (fs : List Event) (w : State), vs.length = n ∧
      w.hist = s.hist ++ vs.map (fun v => .choice v.toNat) ∧ (fifoStores true n b s).hist = w.hist ++ fs ∧
      StoreRun b n (fun k => some (vs.getD k 0)) w (fifoStores true n b s) := by
  have hstate := fifoDraws_state n s
  have hdrawn : s.Agrees (fifoDraws n s).2 := by
    rw [hstate]
    exact ⟨⟨rfl, rfl, id⟩, rfl⟩
  have hrun := storeRun_fifoWrites (hdrawn.cfg ▸ h0) (hdrawn.memOk hs) (fifoDraws n s).1 b
  rw [fifoDraws_length] at hrun
  have hwrites : WritesOnly (fun _ => False) (fifoDraws n s).2 (fifoStores true n b s) := WritesOnly.refl.fifoWrites _ b
  obtain ⟨fs, hfs⟩ := hwrites.hist_grows
  exact ⟨_, fs, _, fifoDraws_length n s, congrArg State.hist hstate, hfs, hrun⟩

namespace StoreRun

variable {v : Nat → Option Byte}

/-- The stores stand in the history by rising address. -/
theorem accesses (h : StoreRun b n v s t) : t.cpuAccesses = s.cpuAccesses ++
    (List.range n).filterMap (fun k => (v k).map (.cpuWrite (b + BitVec.ofNat 32 k))) := by
  induction h with
  | zero => exact (List.append_nil _).symm
  | @succ b n v s u t first rest ih =>
    rw [ih, first.accesses, List.range_succ_eq_map]
    simp only [add_one_add_ofNat]
    cases hv : v 0 <;> simp [hv, List.filterMap_map]

/-- The CPU sees every byte outside the run as before. -/
theorem cpu_outside {a : Word} (h : StoreRun b n v s t) (ha : ∀ k, k < n → a ≠ b + BitVec.ofNat 32 k) :
    t.cpuByte a = s.cpuByte a := by
  induction h with
  | zero => rfl
  | succ first rest ih =>
    obtain ⟨hfirst, hrest⟩ := KeepsByte.ne_tail ha
    exact (ih hrest).trans (first.cpu_ne hfirst)

/-- The CPU sees each byte of the run as stored, or as before. -/
theorem cpu {k : Nat} (h : StoreRun b n v s t) (hn : n ≤ 2 ^ 32) (hk : k < n) :
    t.cpuByte (b + BitVec.ofNat 32 k) = (v k).getD (s.cpuByte (b + BitVec.ofNat 32 k)) := by
  induction h generalizing k with
  | zero => exact absurd hk k.not_lt_zero
  | @succ b n v s u t first rest ih =>
    cases k with
    | zero =>
      have hfirst : b + BitVec.ofNat 32 0 = b := BitVec.add_zero b
      rw [hfirst, rest.cpu_outside fun j hj => ne_add_one_add_ofNat (by omega), first.cpu_same]
    | succ k =>
      have hne := ne_add_one_add_ofNat (b := b) (k := k) (by omega)
      rw [← add_one_add_ofNat, ih (by omega) (by omega), first.cpu_ne hne.symm]

end StoreRun

/-! ### F1 -/

section F1
variable (op : Instr) {x : Locals}

theorem fifoF1_of_write (s : State) (h : x.dir = .write) : fifoF1 op x s =
    ((fifoReads x.len.toNat x.buf s).consume.emit (.fifoWrite (s.desc x.d).bus (s.target x.d) x.buf x.len (s.desc x.d).timeout
      (fifoReads x.len.toNat x.buf s).answerBit)).goto op .f2 { x with ok := (fifoReads x.len.toNat x.buf s).answerBit } := by
  rw [fifoF1, h]
  rfl

/-- The state a FIFO_READ's draws and stores begin in: the outcome is drawn, and the command stands in the history (log 32). -/
def State.askFifoRead (s : State) (x : Locals) : State :=
  s.consume.emit (.fifoRead (s.desc x.d).bus (s.target x.d) x.buf x.len (s.desc x.d).timeout s.answerBit)

theorem fifoF1_of_read (s : State) (h : x.dir = .read) : fifoF1 op x s =
    (fifoStores s.answerBit x.len.toNat x.buf (s.askFifoRead x)).goto op .f2 { x with ok := s.answerBit } := by
  rw [fifoF1, h]
  rfl

theorem marks_fifoF1 (x : Locals) (s : State) : (fifoF1 op x s).marks = s.marks := by
  simp only [fifoF1]
  split
  · exact (marks_emit (fifoReads x.len.toNat x.buf s).consume _).trans (marks_fifoReads s _ _)
  · exact (marks_fifoStores _ _ _ _).trans (marks_emit s.consume _)

theorem fifoF1_writesOnly (x : Locals) (s : State) : WritesOnly (· = .fg) s (fifoF1 op x s) :=
  submitMicro_writesOnly (P := (· = .fg)) .refl rfl op x none none .none 0 .f1 nofun

/-- F1 writes FG, memory, the cache, the draws and the history. -/
theorem fifoF1_frame (x : Locals) (s : State) : (fifoF1 op x s).descs = s.descs ∧ (fifoF1 op x s).slots = s.slots ∧
    (fifoF1 op x s).rr = s.rr ∧ (fifoF1 op x s).chans = s.chans ∧ (fifoF1 op x s).ctl = s.ctl ∧ (fifoF1 op x s).hz = s.hz ∧
    (fifoF1 op x s).fault = s.fault ∧ (fifoF1 op x s).refused = s.refused := by
  have hw := fifoF1_writesOnly op x s
  have htables := tables_fifoF1 op x s
  have hmarks := marks_fifoF1 op x s
  simp only [State.tables, Prod.mk.injEq] at htables
  simp only [State.marks, Prod.mk.injEq] at hmarks
  obtain ⟨hctl, hhz, -, hdescs⟩ := htables
  obtain ⟨hfault, hrefused, -⟩ := hmarks
  exact ⟨hdescs, hw.slots_eq nofun, hw.rr_eq nofun, hw.chans_eq nofun, hctl, hhz, hfault, hrefused⟩

end F1

/-! ### F2 -/

section F2
variable {d : Idx} {rx tx : Option Buffer} {cb : Callback} {args : Word} {x : Locals}

/-- A failure goes to S9 with a drawn status, which returns it with the lock freed (45_fifo.md R263, 41_dispatch.md R150). -/
theorem runOp_fifoF2_of_failure (hf : s.fg = .busy (.submit d rx tx cb args) .f2 x) (hok : x.ok = false) (hd : x.d = d) :
    runOp (.submit d rx tx cb args) 2 s = .next { s with
      fg := .idle, result := some (if s.answerBit then Status.timeout else .ack).code
      descs := s.descs.modify d.toNat (fun e => { e with lock := false })
      answers := s.answers.tail, drawNo := s.drawNo + 1
      hist := s.hist ++ [.choice (s.answer % 2),
        .ret .submit (some (if s.answerBit then Status.timeout else .ack).code)] } := by
  have hf2 : exec (.submit d rx tx cb args) s = .next (s.choose.engineReturn (.submit d rx tx cb args) x
      (if s.answerBit then .timeout else .ack)) := by
    rw [exec_submit_busy hf nofun nofun, submitMicro, fifoF2, hok]
    rfl
  have herror : (if s.answerBit then Status.timeout else .ack) ≠ .success := by split <;> decide
  rw [runOp_succ hf2, runOp_succ (exec_submit_s9_of_error rfl herror), runOp_zero, ← hd]
  simp [State.finish, State.record, State.unlock, State.modifyDesc, State.choose, State.consume, State.engineReturn, State.goto]

end F2

end Sys2Proof.Machine
end

section
open Sys2Proof Sys2Proof.Machine

/-- Settles O44: the reads one by one, and then the command with its drawn outcome. -/
theorem fifoWriteStreams : Obligations.FifoWriteStreams := by
  rintro s _ rx tx cb args x rfl op e hw hf hdir
  have h0 := (Config.wf_line hw).1
  let u := fifoReads x.len.toNat x.buf s
  have hu : s.Agrees u := agrees_fifoReads h0 _ _
  obtain ⟨es, hes⟩ := (fifoF1_writesOnly op x s).hist_grows
  have hframe := fifoF1_frame op x s
  have hf1 := fifoF1_of_write op s hdir
  rw [hf1] at hes hframe
  refine ⟨_, u.answerBit, es, (exec_submit_busy hf nofun nofun).trans (congrArg _ hf1), rfl, hes, cmdsOf_appended hes ?trace,
    accesses_appended hes ?accesses, congrFun hu.cpu, mem_fifoReads _ _ s, hframe⟩
  case trace => exact (trace_emit u.consume _).trans (congrArg (· ++ _) (trace_fifoReads _ _ s))
  case accesses => exact (cpuAccesses_emit u.consume _).trans (cpuAccesses_fifoReads h0 _ _)

/-- Settles O45: the command with its drawn outcome, and then a run of stores, of every byte after a success and of some after a failure. -/
theorem fifoReadStreams : Obligations.FifoReadStreams := by
  rintro s _ rx tx cb args x rfl op e hw hs hf hdir hbuf
  have h0 := (Config.wf_line hw).1
  let u := s.askFifoRead x
  let t := fifoStores s.answerBit x.len.toNat x.buf u
  have hout {a : Word} (ha : ¬ (x.buf.toNat ≤ a.toNat ∧ a.toNat < x.buf.toNat + x.len.toNat)) : t.cpuByte a = s.cpuByte a :=
    (KeepsByte.fifoStores (s := u) s.answerBit _ _ h0 hs fun _ => ne_add_ofNat_of_outside hbuf ha).cpu
  obtain ⟨es, hes⟩ := (fifoF1_writesOnly op x s).hist_grows
  have hframe := fifoF1_frame op x s
  have hf1 := fifoF1_of_read op s hdir
  rw [hf1] at hes hframe
  have hlen : x.len.toNat ≤ 2 ^ 32 := x.len.isLt.le
  refine ⟨_, s.answerBit, es, (exec_submit_busy hf nofun nofun).trans (congrArg _ hf1), rfl, hes, cmdsOf_appended hes ?trace,
    fun a => hout, fun hok => ?success, fun hok => ?failure, hframe⟩
  case trace => exact (trace_fifoStores _ _ _ u).trans (trace_emit s.consume _)
  case success =>
    obtain ⟨vs, fs, w, hvs, hdraws, hstores, hrun⟩ :=
      exists_storeRun_fifoStores_of_success (s := u) h0 hs x.len.toNat x.buf
    have ht : fifoStores true x.len.toNat x.buf u = t := by rw [← hok]
    rw [ht] at hstores hrun
    refine ⟨fun k => vs.getD k 0, fs, ?_, ?_, fun k hk => hrun.cpu hlen hk⟩
    · have hcmd : u.hist = s.hist ++
          [.cmd (.fifoRead e.bus ⟨e.slave, e.iaddr, e.isize⟩ x.buf x.len e.timeout s.answerBit)] := emit_hist s.consume _
      have hhist : s.hist ++ es = t.hist := hes.symm
      rw [hstores, hdraws, hcmd, hok, List.append_assoc, List.append_assoc] at hhist
      rw [← hvs, map_range_getD vs 0 (fun v => Event.choice v.toNat), List.append_assoc]
      exact List.append_cancel_left hhist
    · rw [accesses_appended hstores hrun.accesses]
      exact congrFun List.filterMap_eq_map _
  case failure =>
    obtain ⟨ws, hrun⟩ := exists_storeRun_fifoReplaces (s := u) h0 hs x.len.toNat x.buf
    have ht : t = fifoReplaces x.len.toNat x.buf u := if_neg (Bool.eq_false_iff.1 hok)
    rw [← ht] at hrun
    exact ⟨_, accesses_appended hes (hrun.accesses.trans (congrArg (· ++ _) (cpuAccesses_emit s.consume _))),
      fun k hk => hrun.cpu hlen hk⟩

/-- Settles O46: a failure returns by the drawn bit, and each status is the answer of one. -/
theorem fifoFailure : Obligations.FifoFailure := by
  intro s d rx tx cb args x hd op returns hf
  have hreturns (u : State) (hu : u.fg = .busy op .f2 x) (hok : x.ok = false) :
      returns u (if u.answerBit then Status.timeout else .ack).code := ⟨_, by simpa using runOp_fifoF2_of_failure hu hok hd⟩
  refine ⟨fun hok => ?_, fun hok => ⟨?_, ⟨0, hreturns { s with answers := 0 :: s.answers } hf hok⟩,
    ⟨1, hreturns { s with answers := 1 :: s.answers } hf hok⟩⟩⟩
  · exact (exec_submit_busy hf nofun nofun).trans (congrArg _ (if_pos hok))
  · have h := hreturns s hf hok
    cases hbit : s.answerBit with
    | false => exact .inl (by rwa [hbit] at h)
    | true => exact .inr (by rwa [hbit] at h)

end

section
/-! The interrupt context beside the foreground (60_exceptions.md R283, R285, R286): `WritesOnly` says that no interrupt step writes FG,
RR or the parameters; here stand the two fields it does not restrict. -/

namespace Sys2Proof.Machine

/-- The input still to come, and the result word of the operation that returned last. -/
@[simp] def State.inputsAndResult (s : State) : List Input × Option Word := (s.inputs, s.result)

theorem inputsAndResult_unmatchedIrq (p : Idx) (s : State) : (unmatchedIrq p s).inputsAndResult = s.inputsAndResult := by
  simp [unmatchedIrq]

theorem inputsAndResult_rxrdyMatched (k : Nat) (s : State) : (rxrdyMatched k s).inputsAndResult = s.inputsAndResult := by
  simp only [rxrdyMatched, ite_stop, ite_endBytes]
  split <;> simp

theorem inputsAndResult_txrdyMatched (k : Nat) (s : State) : (txrdyMatched k s).inputsAndResult = s.inputsAndResult := by
  simp only [txrdyMatched]
  split
  · simp
  · split <;> simp

theorem inputsAndResult_txcompMatched (p : Idx) (k : Nat) (s : State) :
    (txcompMatched p k s).inputsAndResult = s.inputsAndResult := by
  simp only [txcompMatched]
  split
  · split
    · cases s.cfg.lockRelease <;> simp
    · rfl
  · rfl

theorem inputsAndResult_doneStep (c : Idx) (s : State) : (doneStep c s).inputsAndResult = s.inputsAndResult := by
  cases h : s.callbackAdmitted (s.desc (s.chan c).desc).callback with
  | false =>
    rw [doneStep_of_not_admitted h]
    rfl
  | true =>
    rw [doneStep_of_admitted h]
    split
    · exact congrArg₂ Prod.mk (emit_inputs s _) (emit_result s _)
    · rfl

/-- An interrupt step completes, and takes no input and writes no result word (60_exceptions.md R283). -/
theorem exec_interrupt_next {i : Instr} (hi : i.opcode.foreground = false) (s : State) :
    ∃ t, exec i s = .next t ∧ t.inputsAndResult = s.inputsAndResult := by
  cases i with
  | configure | submit | isBusy | waitUntilIdle | defaultCallback => cases hi
  | irqRxrdy p =>
    refine ⟨_, exec_irqRxrdy s p, ?_⟩
    split
    · exact inputsAndResult_rxrdyMatched _ s
    · exact inputsAndResult_unmatchedIrq p s
  | irqTxrdy p =>
    refine ⟨_, exec_irqTxrdy s p, ?_⟩
    split
    · exact inputsAndResult_txrdyMatched _ s
    · exact inputsAndResult_unmatchedIrq p s
  | irqTxcomp p =>
    refine ⟨_, exec_irqTxcomp s p, ?_⟩
    split
    · exact inputsAndResult_txcompMatched p _ s
    · exact inputsAndResult_unmatchedIrq p s
  | irqNone p =>
    refine ⟨_, exec_irqNone s p, ?_⟩
    split
    · rfl
    · exact inputsAndResult_unmatchedIrq p s
  | dmaDone c => exact ⟨_, exec_dmaDone s c, inputsAndResult_doneStep c s⟩

/-- An interrupt step may write neither FG nor RR (60_exceptions.md R285, 10_state.md R29). -/
theorem not_execParts_of_interrupt {i : Instr} (hi : i.opcode.foreground = false) (f : Fg) :
    ¬ execParts f i .fg ∧ ¬ execParts f i .rr := by
  cases i with
  | configure | submit | isBusy | waitUntilIdle | defaultCallback => cases hi
  | irqRxrdy | irqTxrdy | irqTxcomp | irqNone | dmaDone => simp [execParts]

end Sys2Proof.Machine
end

section
open Sys2Proof Sys2Proof.Machine

/-- Settles O8: what an interrupt step may write (`exec_writesOnly`) leaves out FG, RR and the parameters, and it neither takes an input nor
returns a result. -/
theorem interruptKeepsForeground : Obligations.InterruptKeepsForeground := by
  intro s p c i hi
  have hint : i.opcode.foreground = false := by
    simp only [List.mem_cons, List.not_mem_nil, or_false] at hi
    obtain rfl | rfl | rfl | rfl | rfl := hi <;> rfl
  obtain ⟨t, hexec, hio⟩ := exec_interrupt_next hint s
  obtain ⟨hfg, hrr⟩ := not_execParts_of_interrupt hint s.fg
  have hw := exec_writesOnly (P := execParts s.fg i) .refl (fun _ h => h) hexec
  obtain ⟨hinputs, hresult⟩ := Prod.mk.inj hio
  exact ⟨t, hexec, hw.fg_eq hfg, hw.rr_eq hrr, hw.cfg_eq, hinputs, hresult⟩

end

section
/-! When the environment may present an interrupt event or a completion (60_exceptions.md R281, R282), and that one it may not present is
passed over (log 4). -/

namespace Sys2Proof.Machine

variable {s : State} {i : Instr} {p c : Idx} {ws : List Word} {more : List Input}

theorem irqEnabled_iff : s.irqEnabled i p = true ↔ s.lineOn p = true ∧ s.vec p = .shared ∧ s.filterPasses i p = true := by
  simp [State.irqEnabled, and_assoc]

theorem doneEnabled_iff : s.doneEnabled c = true ↔
    (s.chan c).active = true ∧ (s.chan c).started = true ∧ (s.chan c).cbSet = true ∧ (s.chan c).moved = (s.chan c).len := by
  simp [State.doneEnabled, and_assoc]

theorem filterPasses_of_any (h : s.cfg.irqFilter = .any) (i : Instr) (p : Idx) : s.filterPasses i p = true := by
  simp only [State.filterPasses, h]

/-- Under `ENABLED_ONLY` an event goes by its one bit of `INTEN`. -/
theorem filterPasses_of_enabledOnly {k : Nat} (h : s.cfg.irqFilter = .enabledOnly) (hk : k < 3)
    (hi : eventBit i = some (BitVec.twoPow 3 k)) (p : Idx) : s.filterPasses i p = (s.inten p).getLsbD k := by
  simp only [State.filterPasses, h, hi, BitVec.and_twoPow]
  cases (s.inten p).getLsbD k with
  | false => rfl
  | true =>
    have hbit : BitVec.twoPow 3 k ≠ 0 := fun h0 => by simpa [hk] using congrArg (BitVec.getLsbD · k) h0
    simpa using hbit

/-- Under `ENABLED_ONLY` an event without a bit of `INTEN` does not pass. -/
theorem filterPasses_of_no_bit (h : s.cfg.irqFilter = .enabledOnly) (hi : eventBit i = none) (p : Idx) :
    s.filterPasses i p = false := by
  simp only [State.filterPasses, h, hi]

theorem irqEnabled_iff_of_any (h : s.cfg.irqFilter = .any) : s.irqEnabled i p = true ↔ s.lineOn p = true ∧ s.vec p = .shared := by
  rw [irqEnabled_iff, filterPasses_of_any h, and_iff_left rfl]

theorem irqEnabled_iff_of_enabledOnly {k : Nat} (h : s.cfg.irqFilter = .enabledOnly) (hk : k < 3)
    (hi : eventBit i = some (BitVec.twoPow 3 k)) :
    s.irqEnabled i p = true ↔ s.lineOn p = true ∧ s.vec p = .shared ∧ (s.inten p).getLsbD k = true := by
  rw [irqEnabled_iff, filterPasses_of_enabledOnly h hk hi]

theorem irqEnabled_of_no_bit (h : s.cfg.irqFilter = .enabledOnly) (hi : eventBit i = none) : s.irqEnabled i p = false := by
  rw [State.irqEnabled, filterPasses_of_no_bit h hi, Bool.and_false]

/-- An event or a completion that may not be presented is passed over: its words are those of an interrupt-context command, which never
waits for the foreground, and it is not run (log 4). -/
theorem commandTurn_of_not_mayIssue {rest : List Word} (hd : decode s.cfg ws = .ok (i, rest)) (hi : i.opcode.foreground = false)
    (hm : s.mayIssue i = false) : commandTurn ws s = .next (s.afterFetch rest) := by
  have hwords := words_of_decode hd
  have hne : ws ≠ [] := by simp [hwords, encode_ne_nil]
  have hwaits : s.waitsForForeground ws = false := by rw [hwords, waitsForForeground_encode, hi, Bool.false_and]
  simp [commandTurn, hne, hwaits, hd, hm]

end Sys2Proof.Machine
end

section
open Sys2Proof Sys2Proof.Machine

/-- Settles O7: an event is presented by its line, its vector and the filter, a completion by its channel; a command of the interrupt
context that may not be issued only leaves the input. -/
theorem eventsUnderTheirConditions : Obligations.EventsUnderTheirConditions := by
  refine fun s p c => ⟨fun i hi hany => ?any, fun henabled => ⟨?rxrdy, ?txrdy, ?txcomp, ?none⟩, doneEnabled_iff,
    fun i ws more hf hr hin hd hi hm => ?passedOver⟩
  case any =>
    simp only [List.mem_cons, List.not_mem_nil, or_false] at hi
    obtain rfl | rfl | rfl | rfl := hi <;> exact irqEnabled_iff_of_any hany
  case rxrdy => exact irqEnabled_iff_of_enabledOnly henabled (k := 0) (by decide) rfl
  case txrdy => exact irqEnabled_iff_of_enabledOnly henabled (k := 1) (by decide) rfl
  case txcomp => exact irqEnabled_iff_of_enabledOnly henabled (k := 2) (by decide) rfl
  case none => exact irqEnabled_of_no_bit henabled rfl
  case passedOver => rw [step_of_command hf hr hin, commandTurn_of_not_mayIssue hd hi hm, afterFetch_eq hin, if_pos rfl]

end

section
/-! Where a run starts (70_reset_and_hazards.md R320): every entry of the launch state's tables, and the invariant there. -/

namespace Sys2Proof.Machine

variable {cfg : Config} {hs : List HostDesc} {m : Memory}

/-- A descriptor has the host's fields, and no callback, no region and a free lock (10_state.md R23). -/
theorem desc_of_launch {i : Nat} {e : Desc} {h : HostDesc} (he : (State.launch cfg hs m).descs[i]? = some e)
    (hh : hs[i]? = some h) : e = Desc.launch h := by
  simpa [State.launch, hh, eq_comm] using he

theorem slot_of_mem_launch {y : Slot} (hy : y ∈ (State.launch cfg hs m).slots) : y = Slot.launch :=
  List.eq_of_mem_replicate hy

theorem chan_of_mem_launch {y : Chan} (hy : y ∈ (State.launch cfg hs m).chans) : y = Chan.launch :=
  List.eq_of_mem_replicate hy

theorem ctl_of_mem_launch {y : Ctl} (hy : y ∈ (State.launch cfg hs m).ctl) : y = Ctl.launch :=
  List.eq_of_mem_replicate hy

theorem Config.nSlots_pos (h : cfg.wf = true) : 0 < cfg.nSlots := by
  simp only [Config.wf, Bool.and_eq_true, decide_eq_true_eq] at h
  omega

theorem Config.nDesc_pos (h : cfg.wf = true) : 0 < cfg.nDesc := by
  simp only [Config.wf, Bool.and_eq_true, decide_eq_true_eq] at h
  omega

/-- The invariant at every launch in range: a free slot is well-formed, and so is a channel that has moved nothing. -/
theorem launch_inv (hw : cfg.wf = true) (hd : hs.length = cfg.nDesc) (hm : Memory.wf m = true) : (State.launch cfg hs m).Inv where
  cfg := hw
  sized := ⟨by simpa [State.launch] using hd, List.length_replicate, List.length_replicate, List.length_replicate,
    Config.nSlots_pos hw⟩
  mem := ⟨hm, Cache.wf_nil⟩
  slots := fun _ hy => .inl (slot_of_mem_launch hy ▸ rfl)
  chans := fun _ hy => chan_of_mem_launch hy ▸ ⟨Nat.le_refl 0, fun _ => rfl, Config.nDesc_pos hw⟩
  fg := trivial

end Sys2Proof.Machine
end

section
open Sys2Proof Sys2Proof.Machine

/-- Settles O58: the scalar fields and the tables' lengths by definition, and the tables entry by entry. -/
theorem launchState : Obligations.LaunchState := by
  refine fun cfg hs m => ⟨rfl, rfl, rfl, rfl, rfl, rfl, rfl, rfl, List.length_map _, List.length_replicate, List.length_replicate,
    List.length_replicate, fun i e h => desc_of_launch, fun y hy => ?slots, fun y => chan_of_mem_launch, fun y => ctl_of_mem_launch⟩
  case slots =>
    rw [slot_of_mem_launch hy]
    exact ⟨rfl, rfl, rfl, rfl, rfl, rfl, rfl⟩

/-- Settles O59: the reset state is a launch of parameters in range, with one descriptor per index and the empty memory. -/
theorem resetInvariant : Obligations.ResetInvariant :=
  ⟨rfl, launch_inv (by decide) List.length_replicate rfl, fun _ _ _ => launch_inv⟩

end

section
/-! Where a run rests (70_reset_and_hazards.md R350): with every slot free and no channel active, no agent has anything to do. -/

namespace Sys2Proof.Machine

variable {s : State} {c : Idx}

/-- Idle, every slot free, no channel active, every lock free (R350). -/
theorem quiescent_iff : s.quiescent = true ↔
    s.fg = .idle ∧ (∀ y ∈ s.slots, y.free = true) ∧ (∀ y ∈ s.chans, y.active = false) ∧ ∀ e ∈ s.descs, e.lock = false := by
  simp [State.quiescent, and_assoc]

theorem pid_eq_none_of_free {y : Slot} (h : y.free = true) : y.pid = none := by
  simp only [Slot.free, Bool.and_eq_true, beq_iff_eq] at h
  exact h.1

/-- A free slot is bound to no identifier (10_state.md R27). -/
theorem unbound_of_free (h : ∀ y ∈ s.slots, y.free = true) (p : Idx) : s.unbound p := fun y hy => by
  simp [pid_eq_none_of_free (h y hy)]

/-- A channel past the end of the table is inactive too (log 19). -/
theorem chan_inactive (h : ∀ y ∈ s.chans, y.active = false) (c : Idx) : (s.chan c).active = false := by
  by_cases hc : c.toNat < s.chans.length
  · exact h _ (List.mem_of_getElem? (chan_of_lt hc))
  · simp [State.chan, List.getD_eq_getElem?_getD, hc, Chan.launch]

/-- An inactive channel has no completion to present (44_dma.md R239). -/
theorem doneEnabled_of_inactive (h : (s.chan c).active = false) : s.doneEnabled c = false := by
  simp [State.doneEnabled, h]

/-- An inactive channel has no byte to move (44_dma.md R238). -/
theorem dmaByteStep_of_inactive (h : (s.chan c).active = false) : dmaByteStep c s = s :=
  dmaByteStep_of_not_running fun hr => by simp [(running_iff.1 hr).1] at h

end Sys2Proof.Machine
end

section
open Sys2Proof Sys2Proof.Machine

/-- Settles O57: free slots are bound to nothing, inactive channels complete and move nothing, and an idle foreground with no input
stays. -/
theorem quiescentRests : Obligations.QuiescentRests := by
  intro s p c hq
  obtain ⟨hidle, hslots, hchans, -⟩ := quiescent_iff.1 hq
  have hc := chan_inactive hchans c
  exact ⟨unbound_of_free hslots p, doneEnabled_of_inactive hc, dmaByteStep_of_inactive hc,
    fun hf hr hi => (step_of_no_input hf hr hi).trans (foregroundTurn_of_idle hidle)⟩

end
